-- ==== Sys2Proof/Word.lean ====
section
/-! DEFINITION. The word types: a register or bus word of 32 bits and a byte (00_scope R6, R8). -/

namespace Sys2Proof

/-- A register, a bus word or a bus address: 32 bits (00_scope R6). -/
abbrev Word := BitVec 32

/-- A byte: one element of TEXT_BUF, RS_BUF, DCW_BUF, CW_BUF, MATRIX_BUF, and one codeword (00_scope R5). -/
abbrev Byte := BitVec 8

end Sys2Proof
end

