-- ==== Sys2Proof/Config.lean ====
section
/-! DEFINITION. What an implementation fixes (00_scope R6), and the free values: constants with no body, which
nothing can evaluate, one for each value the spec leaves open (93_implementation_defined, section 1). -/

namespace Sys2Proof

/-- The implementation parameters of 00_scope R6, each with the value this hardware takes as its default.
The constraint column is `Config.wellFormed`. `base` is the platform's choice (20_memory R60); its default
0 is a DESIGN CHOICE (log 5). -/
structure Config where
  base : Word := 0
  textMax : Nat := 8192
  segMax : Nat := textMax
  pixMax : Nat := 4194304
  rsMaxEc : Nat := 30
  idValue : Word := 0x51520001
  defaultEcl : BitVec 2 := 1
  defaultPixelWidth : BitVec 16 := 300
  defaultMargin : BitVec 8 := 4
  defaultDark : Word := 0x000000FF
  defaultLight : Word := 0xFFFFFFFF
deriving DecidableEq, Repr

/-- FREE VALUE (log 2). How many host steps come before the completion of the command accepted at draw `n`
(70_reset R340, R341; 93 U13): any finite number, chosen per command. -/
opaque Config.completionDelay (n : Nat) : Nat

/-- FREE VALUE (log 3). The content, since the reset numbered `epoch`, of the buffer byte at offset `a` that
nothing has written since that reset (10_state R56; 93 U5, U6). -/
opaque Config.unwrittenByte (epoch a : Nat) : Byte

/-- FREE VALUE (log 4). Lane `lane` of a read that returns any value, at draw `n` (20_memory R69; 93 U1-U5, U7). -/
opaque Config.anyByte (n lane : Nat) : Byte

/-- FREE VALUE (log 8). What BUILD result register number `k` holds after an InternalEncodingError at draw `n`
(44_mask_penalty R252; 93 U12). -/
opaque Config.anyResult (n k : Nat) : Word

end Sys2Proof
end

