-- ==== Sys2Proof/Syntax.lean ====
section
/-! DEFINITION. The commands: one constructor for each row of spec/opcode_table.json (30_encoding R91).
Commands carry no operand fields; every operand is implicit in a register or buffer (30_encoding R94). -/

namespace Sys2Proof

/-- The six commands of 30_encoding R91. -/
inductive Instr where
  /-- 46_control R290. -/
  | nop
  /-- 40_segmenter R130. -/
  | segment
  /-- 44_mask_penalty R250. -/
  | build
  /-- 45_rasterizer R275. -/
  | raster
  /-- 46_control R291. -/
  | generate
  /-- 42_reed_solomon R188. -/
  | rsEncode
deriving DecidableEq, Repr

end Sys2Proof
end

