-- ==== Sys2Proof/Machine/State.lean ====
section
/-! DEFINITION. The state of the block (10_state), the pending inputs of its host port and reset line
(70_reset R334), and the state after reset (10_state R56). -/

namespace Sys2Proof.Machine

/-- The three access widths of the host port (20_memory R63). -/
inductive Width where
  | w8 | w16 | w32
deriving DecidableEq, Repr

/-- One input of the block, taken in the order the list of pending inputs gives (70_reset R334, log 1). Addresses are
the platform's: BASE + offset (20_memory R60). -/
inductive HostOp where
  /-- WR8, WR16, WR32 (30_encoding R95). -/
  | write (w : Width) (addr val : Word)
  /-- RD8, RD16, RD32 (30_encoding R95; 16-bit reads: 20_memory R63). -/
  | read (w : Width) (addr : Word)
  /-- One poll of the WAIT loop: it stays pending while the STATUS it reads shows BUSY = 1 (30_encoding R96). -/
  | wait
  /-- The platform drives the reset input to `level`, true being asserted (70_reset R330, log 11). -/
  | resetLine (level : Bool)
deriving DecidableEq, Repr

/-- PHASE (10_state R53). -/
inductive Phase where
  | idle | running
deriving DecidableEq, Repr

/-- The legal values of ERRCODE.CODE (10_state R34, 60_exceptions R300); codes 6 to 15 are never written. -/
inductive ErrCode where
  | none | invalidInput | dataTooLong | internalEncodingError | illegalCommand | bufferOverflow
deriving DecidableEq, Repr

/-- The seven bits of STATUS (10_state R26); bits 31 to 7 are no storage and read 0. -/
structure Status where
  busy : Bool := false
  done : Bool := false
  err : Bool := false
  segv : Bool := false
  symv : Bool := false
  pixv : Bool := false
  ovr : Bool := false
deriving DecidableEq, Repr

/-- The configuration registers, at their field widths (10_state R35 to R39, R41). -/
structure ConfRegs where
  textLen : BitVec 16
  eclReq : BitVec 2
  pixelWidth : BitVec 16
  margin : BitVec 8
  darkColor : Word
  lightColor : Word
  rsDataLen : BitVec 8
  rsEcLen : BitVec 8
deriving DecidableEq, Repr

/-- The BUILD result registers, at their field widths (10_state R43, R44). -/
structure BuildRegs where
  version : BitVec 6 := 0
  side : BitVec 8 := 0
  levelUsed : BitVec 2 := 0
  maskUsed : BitVec 3 := 0
  dataCw : BitVec 12 := 0
  totalCw : BitVec 12 := 0
  bitsUsed : BitVec 16 := 0
  reqBytes : Word := 0
  capBytes : BitVec 12 := 0
  formatInfo : BitVec 15 := 0
  versionInfo : BitVec 18 := 0
  penalty : Vector Word 8 := #v[0, 0, 0, 0, 0, 0, 0, 0]
deriving DecidableEq, Repr

/-- The RASTER result registers (10_state R45). -/
structure RasterRegs where
  modulePx : BitVec 16 := 0
  outDim : BitVec 16 := 0
deriving DecidableEq, Repr

/-- The state of the block.

`cfg` is fixed for the machine (log 5). `mem` is the seven buffers (10_state R40) at their host-port offsets
(20_memory R61): the pairs list exactly the bytes written since the last reset, at rising offsets; what an unlisted
byte holds is a free value (log 3). `resetLine`, `hostQueue` and `hostReads` are what stands outside the block:
the reset input's level, the inputs still to come (oldest first), and the values the host's reads returned
(newest first). `delayLeft`, `draws` and `epoch` are the model's own (log 2, 3, 4). -/
structure State where
  cfg : Config
  phase : Phase
  latchedOp : Word
  cmd : Word
  status : Status
  errcode : ErrCode
  conf : ConfRegs
  segCount : BitVec 16
  build : BuildRegs
  raster : RasterRegs
  mem : List Host.Cell
  resetLine : Bool
  hostQueue : List HostOp
  hostReads : List Word
  delayLeft : Nat
  draws : Nat
  epoch : Nat
deriving DecidableEq, Repr

/-- Why the machine stops with a fault: never. The block has no bus error, no trap and no handler (20_memory R65,
60_exceptions R311); an error is the way a command completes (60_exceptions R307). No constructor (log 14). -/
inductive Fault where
deriving DecidableEq, Repr

/-- Why a step is refused. -/
inductive Refusal where
  /-- An instruction that has no meaning in the model yet. Safe. Nothing of this model raises it: every
  command has its meaning. -/
  | notModelled (mnemonic : String)
deriving DecidableEq, Repr

/-- The configuration registers after reset (10_state R56). -/
def ConfRegs.afterReset (cfg : Config) : ConfRegs :=
  { textLen := 0, eclReq := cfg.defaultEcl, pixelWidth := cfg.defaultPixelWidth, margin := cfg.defaultMargin,
    darkColor := cfg.defaultDark, lightColor := cfg.defaultLight, rsDataLen := 0, rsEcLen := 0 }

/-- Every piece of the block's own state at its reset value (10_state R56, 70_reset R330), for a block with the given
parameters, in reset epoch `epoch` (buffer contents unspecified: nothing listed, log 3). What stands outside the
block is empty (log 17). -/
def State.afterReset (cfg : Config) (epoch : Nat) : State :=
  { cfg := cfg, phase := .idle, latchedOp := 0, cmd := 0, status := {}, errcode := .none,
    conf := ConfRegs.afterReset cfg, segCount := 0, build := {}, raster := {}, mem := [],
    resetLine := false, hostQueue := [], hostReads := [], delayLeft := 0, draws := 0, epoch := epoch }

/-- The machine right after reset, with the default parameters of 00_scope R6. -/
def State.reset : State := State.afterReset {} 0

end Sys2Proof.Machine
end

