-- ==== Sys2Proof/WellFormed.lean ====
section
/-! DEFINITION. The static checks: a command, a bus access of the host notation, and the parameters. -/

namespace Sys2Proof

/-- A command carries no operand fields, so every command is well formed (30_encoding R94). -/
def Instr.wellFormed : Instr → Bool
  | .nop | .segment | .build | .raster | .generate | .rsEncode => true

/-- The constraint column of 00_scope R6, with the upper bounds the address map states for the three buffer sizes (20_memory
R61) and the one value the spec fixes for each reset default (93_implementation_defined U19, U20). ID and BASE are free. -/
def Config.wellFormed (c : Config) : Bool :=
  decide (7089 ≤ c.textMax) && decide (c.textMax ≤ 8192)
    && decide (c.textMax ≤ c.segMax) && decide (c.segMax ≤ 8192)
    && decide (687 * 687 ≤ c.pixMax) && decide (c.pixMax ≤ 4194304)
    && decide (30 ≤ c.rsMaxEc)
    && decide (c.defaultEcl = 1) && decide (c.defaultPixelWidth = 300)
    && decide (c.defaultMargin = 4) && decide (c.defaultDark = 0x000000FF) && decide (c.defaultLight = 0xFFFFFFFF)

namespace Machine

/-- The bytes an access of this width moves (20_memory R63). -/
def Width.bytes : Width → Nat
  | .w8 => 1
  | .w16 => 2
  | .w32 => 4

/-- A host statement of 30_encoding R95: the value of a write fits its width. -/
def HostOp.wellFormed : HostOp → Bool
  | .write w _ val => decide (val.toNat < 256 ^ w.bytes)
  | .read _ _ | .wait | .resetLine _ => true

end Machine

end Sys2Proof
end

