-- ==== Sys2Proof/Decode.lean ====
section
/-! DEFINITION. The command word: decoder and encoder (30_encoding R90 to R93). The block fetches nothing, so a
command has no byte form: the decoder reads the 32-bit word of an accepted write to CMD (10_state R22, R25). -/

namespace Sys2Proof

/-- Why a word is no command. -/
inductive DecodeReject where
  /-- RSVD = word[31:4] is not 0 (30_encoding R92). -/
  | reservedField
  /-- RSVD is 0 and OP is 6 to 15 (30_encoding R93). -/
  | reservedOpcode
deriving DecidableEq, Repr

/-- OP = word[3:0] (30_encoding R90). -/
def opField (w : Word) : Nat := w.toNat % 16

/-- RSVD = word[31:4] (30_encoding R90). -/
def rsvdField (w : Word) : Nat := w.toNat / 16

/-- The decoder, total on words (30_encoding R91 to R93). -/
def decode (w : Word) : Except DecodeReject Instr :=
  if rsvdField w ≠ 0 then .error .reservedField
  else if opField w = 0 then .ok .nop
  else if opField w = 1 then .ok .segment
  else if opField w = 2 then .ok .build
  else if opField w = 3 then .ok .raster
  else if opField w = 4 then .ok .generate
  else if opField w = 5 then .ok .rsEncode
  else .error .reservedOpcode

/-- The command word of each command: the OP value zero-extended to 32 bits (30_encoding R91). -/
def encode : Instr → Word
  | .nop => 0x00000000
  | .segment => 0x00000001
  | .build => 0x00000002
  | .raster => 0x00000003
  | .generate => 0x00000004
  | .rsEncode => 0x00000005

/-- The command the decoder reads from an instruction of `nbits` bits with value `w`, bit 0 the least significant bit of
the word. A command is one 32-bit word (30_encoding R90), so the bits above `nbits` are 0 and a value that does not
fit 32 bits is no command. -/
def decodeTableWord (nbits w : Nat) : Option Instr :=
  if w % 2 ^ nbits < 2 ^ 32 then
    match decode (BitVec.ofNat 32 (w % 2 ^ nbits)) with
    | .ok i => some i
    | .error _ => none
  else none

end Sys2Proof
end

