-- ==== Sys2Proof/Machine/Bits.lean ====
section
/-! DEFINITION. Bit sequences, most significant bit first (00_scope R8, 20_memory R75), and the little-endian byte order
of the host port (20_memory R63). -/

namespace Sys2Proof.Machine

/-- bits_w(x): the w-bit sequence of x, most significant bit first (00_scope R8). -/
def bitsMsb (w x : Nat) : List Bool :=
  (List.range w).map fun i => x.testBit (w - 1 - i)

/-- The value of a bit sequence, most significant bit first (00_scope R8). -/
def natOfBits (bs : List Bool) : Nat :=
  bs.foldl (fun acc b => 2 * acc + b.toNat) 0

/-- The bits of a codeword from bit 7 down to bit 0 (41_bitstream R162, 43_matrix_layout R225). -/
def bitsOfByte (b : Byte) : List Bool := bitsMsb 8 b.toNat

/-- Cut a bit sequence into codewords: codeword j is bits 8j .. 8j+7, bit 8j as bit 7 (41_bitstream R162). An incomplete
last group gives no codeword; the padded bitstream has none (41_bitstream R161). -/
def bytesOfBits : List Bool → List Byte
  | b7 :: b6 :: b5 :: b4 :: b3 :: b2 :: b1 :: b0 :: rest =>
    BitVec.ofNat 8 (natOfBits [b7, b6, b5, b4, b3, b2, b1, b0]) :: bytesOfBits rest
  | _ => []

/-- Byte lane i of a value, lane 0 the least significant (20_memory R63). -/
def byteLane (val i : Nat) : Byte := BitVec.ofNat 8 (val / 256 ^ i)

/-- The n bytes of a value, least significant first (20_memory R63). -/
def bytesLE (n val : Nat) : List Byte := (List.range n).map (byteLane val)

/-- The value of a byte sequence, least significant first (20_memory R63). -/
def natOfBytesLE : List Byte → Nat
  | [] => 0
  | b :: rest => b.toNat + 256 * natOfBytesLE rest

end Sys2Proof.Machine
end

