-- ==== Sys2Proof/Machine/Flags.lean ====
section
/-! DEFINITION. STATUS and ERRCODE: their words as read, and every change a command's acceptance or completion makes to
the status bits (10_state R26 to R34, 60_exceptions R307, R308, 70_reset R336). -/

namespace Sys2Proof.Machine

/-- STATUS as read: bit 0 BUSY, 1 DONE, 2 ERR, 3 SEGV, 4 SYMV, 5 PIXV, 6 OVR, the rest 0 (10_state R26). -/
def Status.toWord (s : Status) : Word :=
  BitVec.ofNat 32 (s.busy.toNat + 2 * s.done.toNat + 4 * s.err.toNat + 8 * s.segv.toNat
    + 16 * s.symv.toNat + 32 * s.pixv.toNat + 64 * s.ovr.toNat)

/-- ERRCODE.CODE (10_state R34, 60_exceptions R300). -/
def ErrCode.code : ErrCode → Nat
  | .none => 0
  | .invalidInput => 1
  | .dataTooLong => 2
  | .internalEncodingError => 3
  | .illegalCommand => 4
  | .bufferOverflow => 5

/-- The status bits after the acceptance of a command (70_reset R336). -/
def Status.accepted (s : Status) : Status :=
  { s with busy := true, done := false, err := false, ovr := false }

/-- The status bits after the completion of a command with code `e`: ERR is set to (CODE != 0) (10_state R27 to R29,
60_exceptions R307, R308). -/
def Status.completed (s : Status) (e : ErrCode) : Status :=
  { s with busy := false, done := true, err := decide (e ≠ .none) }

end Sys2Proof.Machine
end

