-- ==== Sys2Proof/Machine/Memory.lean ====
section
/-! DEFINITION. The byte memory: a list of (offset, byte) pairs in one canonical form, offsets strictly rising. An
unlisted offset holds no value of the model's: nothing has written it since reset (log 3). -/

namespace Sys2Proof.Machine

/-- The byte listed at an offset, if any. -/
def Memory.get? : List Host.Cell → Nat → Option Byte
  | [], _ => none
  | (k, b) :: rest, a => if k = a then some b else Memory.get? rest a

/-- The canonical form: offsets strictly rising. No listed byte can equal what an unlisted offset holds, which is no value. -/
def Memory.wf (m : List Host.Cell) : Bool :=
  decide (m.Pairwise fun x y => x.1 < y.1)

/-- The cells of a run of bytes that starts at offset `base`. -/
def Memory.cellsOf (base : Nat) (bytes : List Byte) : List Host.Cell :=
  bytes.zipIdx.map fun x => (base + x.2, x.1)

/-- Write a run of bytes at offset `base` upward. -/
def Memory.write (m : List Host.Cell) (base : Nat) (bytes : List Byte) : List Host.Cell :=
  (m.filter fun x => x.1 < base) ++ Memory.cellsOf base bytes
    ++ (m.filter fun x => base + bytes.length ≤ x.1)

end Sys2Proof.Machine
end

