-- ==== Sys2Proof/Machine/Ops.lean ====
section
/-! DEFINITION. The shared operations: the buffer windows and the engine's accesses to them, the acceptance of a command,
and its two completions; error completion (60_exceptions R307) is this block's taking of an exception, and there is
no return operation: the next acceptance clears the error (60_exceptions R309). -/

namespace Sys2Proof.Machine

/-- The buffer windows of 20_memory R61 (10_state R40). -/
inductive Window where
  | rsBuf | textBuf | segTable | dcwBuf | cwBuf | matrixBuf | pixelBuf
deriving DecidableEq, Repr

/-- The seven windows. -/
def Window.all : List Window := [.rsBuf, .textBuf, .segTable, .dcwBuf, .cwBuf, .matrixBuf, .pixelBuf]

/-- The window's first offset (20_memory R61). -/
def Window.base : Window → Nat
  | .rsBuf => 0x1000
  | .textBuf => 0x10000
  | .segTable => 0x20000
  | .dcwBuf => 0x40000
  | .cwBuf => 0x41000
  | .matrixBuf => 0x50000
  | .pixelBuf => 0x1000000

/-- The window's size in bytes (10_state R40, 20_memory R61). -/
def Window.size (cfg : Config) : Window → Nat
  | .rsBuf => 256
  | .textBuf => cfg.textMax
  | .segTable => 16 * cfg.segMax
  | .dcwBuf => 2956
  | .cwBuf => 3706
  | .matrixBuf => 177 * 177
  | .pixelBuf => 4 * cfg.pixMax

/-- The offset lies in the window's used bytes (20_memory R61, R65). -/
def Window.contains (cfg : Config) (w : Window) (off : Nat) : Bool :=
  decide (w.base ≤ off) && decide (off < w.base + w.size cfg)

/-- The window an offset lies in; none for an unmapped offset (20_memory R65). -/
def windowOf (cfg : Config) (off : Nat) : Option Window :=
  Window.all.find? fun w => w.contains cfg off

/-- The content of the buffer byte at an offset: the byte written last, or what the buffer held when reset left it (log 3). -/
def State.byteAt (s : State) (off : Nat) : Byte :=
  (Memory.get? s.mem off).getD (Config.unwrittenByte s.epoch off)

/-- The contents of `len` buffer bytes from an offset on. -/
def State.readBytes (s : State) (off len : Nat) : List Byte :=
  (List.range len).map fun i => s.byteAt (off + i)

/-- `State.readBytes` in one pass over the memory, for running the model: `arr` collects the window's listed bytes. -/
def State.readBytesFast (s : State) (off len : Nat) : List Byte :=
  let arr := s.mem.foldr (fun x acc =>
    if off ≤ x.1 ∧ x.1 < off + len then acc.setIfInBounds (x.1 - off) (some x.2) else acc) (Array.replicate len none)
  (List.range len).map fun i => (arr.getD i none).getD (Config.unwrittenByte s.epoch (off + i))

/-- What the one pass collects at index i < len is the byte listed at offset off + i. -/
theorem readBytesFast_collects (m : List Host.Cell) (off len i : Nat) (h : i < len) :
    (m.foldr (fun x acc => if off ≤ x.1 ∧ x.1 < off + len then acc.setIfInBounds (x.1 - off) (some x.2) else acc)
      (Array.replicate len none)).size = len ∧
    (m.foldr (fun x acc => if off ≤ x.1 ∧ x.1 < off + len then acc.setIfInBounds (x.1 - off) (some x.2) else acc)
      (Array.replicate len none)).getD i none = Memory.get? m (off + i) := by
  induction m with
  | nil => simp [Memory.get?, h]
  | cons x rest ih =>
    obtain ⟨hs, hg⟩ := ih
    obtain ⟨k, b⟩ := x
    simp only [List.foldr_cons, Memory.get?]
    by_cases hk : off ≤ k ∧ k < off + len
    · simp only [if_pos hk]
      refine ⟨by simpa using hs, ?_⟩
      by_cases hi : k = off + i
      · subst hi
        simp [Array.getD_eq_getD_getElem?, hs, h]
      · have : k - off ≠ i := by omega
        rw [if_neg hi, ← hg]
        simp [Array.getD_eq_getD_getElem?, this]
    · simp only [if_neg hk]
      refine ⟨hs, ?_⟩
      rw [if_neg (by omega), hg]

/-- The one-pass read is the clear one: the compiler runs it in its place. -/
@[csimp] theorem readBytes_eq_readBytesFast : @State.readBytes = @State.readBytesFast := by
  funext s off len
  refine List.map_congr_left fun i hi => ?_
  have h := List.mem_range.mp hi
  rw [(readBytesFast_collects s.mem off len i h).2]
  rfl

/-- Write a run of buffer bytes from an offset on. -/
def State.writeBytes (s : State) (off : Nat) (bytes : List Byte) : State :=
  { s with mem := Memory.write s.mem off bytes }

/-- Acceptance of a command word (70_reset R336). The delay to its completion is a fresh free value (log 2). -/
def State.accept (s : State) (w : Word) : State :=
  { s with cmd := w, latchedOp := w, status := s.status.accepted, errcode := .none, phase := .running
           delayLeft := Config.completionDelay s.draws, draws := s.draws + 1 }

/-- Completion with code `e`: ERRCODE, DONE, ERR, BUSY and the phase, in one step; e = .none is the success completion of
60_exceptions R308, any other code the error completion of 60_exceptions R307. -/
def State.complete (s : State) (e : ErrCode) : State :=
  { s with errcode := e, status := s.status.completed e, phase := .idle }

/-- How the pseudocode of a command or stage ends: at its end, or with a raise. Either way the state holds what was
written before (00_scope R9, 60_exceptions R307). -/
inductive Stage where
  | ok (s : State)
  | raised (e : ErrCode) (s : State)
deriving DecidableEq, Repr

/-- Run the next stage unless this one raised (46_control R291). -/
def Stage.andThen (x : Stage) (f : State → Stage) : Stage :=
  match x with
  | .ok s => f s
  | .raised e s => .raised e s

/-- The completion that follows a command's pseudocode (70_reset R337). -/
def Stage.finish : Stage → State
  | .ok s => s.complete .none
  | .raised e s => s.complete e

/-- A word that is no command: it completes with ILLEGAL_COMMAND and changes nothing else (30_encoding R92, R93, 60_exceptions R304). -/
def State.illegalCommand (s : State) : State := (Stage.raised .illegalCommand s).finish

end Sys2Proof.Machine
end

