-- ==== Sys2Proof/Machine/Bus.lean ====
section
/-! DEFINITION. The host port: the registers and their map, and what each bus read and write does (20_memory R60 to R70). -/

namespace Sys2Proof.Machine

/-- The registers of 20_memory R61 (10_state, sections 4 to 6). -/
inductive Reg where
  | id | cmd | status | errcode
  | textLen | eclReq | pixelWidth | margin | darkColor | lightColor | rsDataLen | rsEcLen
  | segCount | version | side | levelUsed | maskUsed | dataCw | totalCw | bitsUsed | reqBytes | capBytes
  | modulePx | outDim | formatInfo | versionInfo
  | penalty (k : Fin 8)
deriving DecidableEq, Repr

/-- The registers but for PENALTY0..7. -/
def Reg.plain : List Reg :=
  [.id, .cmd, .status, .errcode, .textLen, .eclReq, .pixelWidth, .margin, .darkColor, .lightColor, .rsDataLen,
   .rsEcLen, .segCount, .version, .side, .levelUsed, .maskUsed, .dataCw, .totalCw, .bitsUsed, .reqBytes, .capBytes,
   .modulePx, .outDim, .formatInfo, .versionInfo]

/-- Every register. -/
def Reg.all : List Reg :=
  Reg.plain ++ [.penalty 0, .penalty 1, .penalty 2, .penalty 3, .penalty 4, .penalty 5, .penalty 6, .penalty 7]

/-- A register's offset (10_state R24 to R45). -/
def Reg.offset : Reg → Nat
  | .id => 0x000
  | .cmd => 0x004
  | .status => 0x008
  | .errcode => 0x00C
  | .textLen => 0x010
  | .eclReq => 0x014
  | .pixelWidth => 0x018
  | .margin => 0x01C
  | .darkColor => 0x020
  | .lightColor => 0x024
  | .rsDataLen => 0x028
  | .rsEcLen => 0x02C
  | .segCount => 0x040
  | .version => 0x044
  | .side => 0x048
  | .levelUsed => 0x04C
  | .maskUsed => 0x050
  | .dataCw => 0x054
  | .totalCw => 0x058
  | .bitsUsed => 0x05C
  | .reqBytes => 0x060
  | .capBytes => 0x064
  | .modulePx => 0x068
  | .outDim => 0x06C
  | .formatInfo => 0x070
  | .versionInfo => 0x074
  | .penalty k => 0x080 + 4 * k.val

/-- The register at an offset; none where the register page is unmapped (20_memory R61, R65). -/
def regAt (off : Nat) : Option Reg := Reg.all.find? fun r => r.offset == off

/-- The result registers of 10_state R42 to R45, which read any value while BUSY = 1 (20_memory R69). -/
def Reg.isResult : Reg → Bool
  | .id | .cmd | .status | .errcode => false
  | .textLen | .eclReq | .pixelWidth | .margin | .darkColor | .lightColor | .rsDataLen | .rsEcLen => false
  | .segCount | .version | .side | .levelUsed | .maskUsed | .dataCw | .totalCw | .bitsUsed | .reqBytes | .capBytes => true
  | .modulePx | .outDim | .formatInfo | .versionInfo => true
  | .penalty _ => true

/-- A register's current value; reserved bits read 0 (10_state R23 to R45). -/
def State.readReg (s : State) : Reg → Word
  | .id => s.cfg.idValue
  | .cmd => s.cmd
  | .status => s.status.toWord
  | .errcode => BitVec.ofNat 32 s.errcode.code
  | .textLen => s.conf.textLen.setWidth 32
  | .eclReq => s.conf.eclReq.setWidth 32
  | .pixelWidth => s.conf.pixelWidth.setWidth 32
  | .margin => s.conf.margin.setWidth 32
  | .darkColor => s.conf.darkColor
  | .lightColor => s.conf.lightColor
  | .rsDataLen => s.conf.rsDataLen.setWidth 32
  | .rsEcLen => s.conf.rsEcLen.setWidth 32
  | .segCount => s.segCount.setWidth 32
  | .version => s.build.version.setWidth 32
  | .side => s.build.side.setWidth 32
  | .levelUsed => s.build.levelUsed.setWidth 32
  | .maskUsed => s.build.maskUsed.setWidth 32
  | .dataCw => s.build.dataCw.setWidth 32
  | .totalCw => s.build.totalCw.setWidth 32
  | .bitsUsed => s.build.bitsUsed.setWidth 32
  | .reqBytes => s.build.reqBytes
  | .capBytes => s.build.capBytes.setWidth 32
  | .modulePx => s.raster.modulePx.setWidth 32
  | .outDim => s.raster.outDim.setWidth 32
  | .formatInfo => s.build.formatInfo.setWidth 32
  | .versionInfo => s.build.versionInfo.setWidth 32
  | .penalty k => s.build.penalty[k.val]

/-- Store a value in a configuration register, keeping the low field bits (10_state R23, R35 to R41); a write to TEXT_LEN
clears SEGV (10_state R35, 20_memory R67). Every other register but CMD is read-only and ignores writes (20_memory R64). -/
def State.storeReg (s : State) (r : Reg) (val : Word) : State :=
  match r with
  | .textLen => { s with conf := { s.conf with textLen := val.setWidth 16 }, status := { s.status with segv := false } }
  | .eclReq => { s with conf := { s.conf with eclReq := val.setWidth 2 } }
  | .pixelWidth => { s with conf := { s.conf with pixelWidth := val.setWidth 16 } }
  | .margin => { s with conf := { s.conf with margin := val.setWidth 8 } }
  | .darkColor => { s with conf := { s.conf with darkColor := val } }
  | .lightColor => { s with conf := { s.conf with lightColor := val } }
  | .rsDataLen => { s with conf := { s.conf with rsDataLen := val.setWidth 8 } }
  | .rsEcLen => { s with conf := { s.conf with rsEcLen := val.setWidth 8 } }
  | .id | .cmd | .status | .errcode => s
  | .segCount | .version | .side | .levelUsed | .maskUsed | .dataCw | .totalCw | .bitsUsed | .reqBytes | .capBytes => s
  | .modulePx | .outDim | .formatInfo | .versionInfo | .penalty _ => s

/-- A 32-bit write to a register: while BUSY it is ignored, but one to CMD sets OVR (10_state R33, 20_memory R68); else one
to CMD issues a command (10_state R25, 20_memory R67). -/
def State.writeReg (s : State) (r : Reg) (val : Word) : State :=
  if s.status.busy then
    if r = .cmd then { s with status := { s.status with ovr := true } } else s
  else if r = .cmd then s.accept val
  else s.storeReg r val

/-- A write of one byte to a buffer offset while BUSY = 0: TEXT_BUF and RS_BUF store it, and TEXT_BUF clears SEGV (20_memory
R67); the other windows and unmapped offsets ignore it (20_memory R64, R65). -/
def State.writeBufByte (s : State) (off : Nat) (b : Byte) : State :=
  match windowOf s.cfg off with
  | some .textBuf => { s.writeBytes off [b] with status := { s.status with segv := false } }
  | some .rsBuf => s.writeBytes off [b]
  | some .segTable | some .dcwBuf | some .cwBuf | some .matrixBuf | some .pixelBuf => s
  | none => s

/-- The running command is RS_ENCODE. -/
def State.rsRunning (s : State) : Bool :=
  s.status.busy && (match decode s.latchedOp with
    | .ok i => i == .rsEncode
    | .error _ => false)

/-- Byte `idx` of a window has a defined value: its validity bit is set, it lies in the defined length, and the engine
does not run a command that hides it (10_state R46 to R52, 20_memory R69). -/
def State.definedByte (s : State) (w : Window) (idx : Nat) : Bool :=
  match w with
  | .textBuf => true
  | .rsBuf => !s.rsRunning
  | .segTable => !s.status.busy && s.status.segv && decide (idx < 16 * s.segCount.toNat)
  | .dcwBuf => !s.status.busy && s.status.symv && decide (idx < s.build.dataCw.toNat)
  | .cwBuf => !s.status.busy && s.status.symv && decide (idx < s.build.totalCw.toNat)
  | .matrixBuf => !s.status.busy && s.status.symv
      && decide (idx / 177 < s.build.side.toNat) && decide (idx % 177 < s.build.side.toNat)
  | .pixelBuf => !s.status.busy && s.status.pixv
      && decide (idx < 4 * (s.raster.outDim.toNat * s.raster.outDim.toNat))

/-- What a host read sees at a buffer offset, in byte lane `lane` of the read: 0 where unmapped (20_memory R65), the byte
where it is defined and has been written since reset, else any value (20_memory R69, 10_state R46, log 4). -/
def State.readBufByte (s : State) (off lane : Nat) : Byte :=
  match windowOf s.cfg off with
  | none => 0
  | some w =>
    if s.definedByte w (off - w.base) then (Memory.get? s.mem off).getD (Config.anyByte s.draws lane)
    else Config.anyByte s.draws lane

/-- A value nothing constrains, of `n` bytes (20_memory R69). -/
def State.anyValue (s : State) (n : Nat) : Word :=
  BitVec.ofNat 32 (natOfBytesLE ((List.range n).map (Config.anyByte s.draws)))

/-- The offset of a platform address: addresses are BASE + offset (20_memory R60). -/
def State.offsetOf (s : State) (addr : Word) : Nat := (addr - s.cfg.base).toNat

/-- The register page: below every buffer window (20_memory R61). -/
def inRegPage (off : Nat) : Bool := decide (off < 0x1000)

/-- A bus write of `w` bytes (20_memory R62 to R68). It has no effect while reset is asserted (70_reset R330), unless it is
naturally aligned, or where a register access is not 32 bits wide. -/
def State.busWrite (s : State) (w : Width) (addr val : Word) : State :=
  let off := s.offsetOf addr
  if s.resetLine then s
  else if off % w.bytes ≠ 0 then s
  else if inRegPage off then
    if w = .w32 then
      match regAt off with
      | some r => s.writeReg r val
      | none => s
    else s
  else if s.status.busy then s
  else (List.range w.bytes).foldl (fun s i => s.writeBufByte (off + i) (byteLane val.toNat i)) s

/-- The value a bus read of `w` bytes returns, zero-extended (20_memory R62, R63, R65, R69); any value while reset is
asserted (70_reset R330). It changes nothing of the block (20_memory R66). DESIGN CHOICE (log 23): where the rules conflict,
reset comes first, then alignment and width: a misaligned read, or a narrow one of a register, returns 0 also where an
aligned read of that result would return any value. -/
def State.busRead (s : State) (w : Width) (addr : Word) : Word :=
  let off := s.offsetOf addr
  if s.resetLine then s.anyValue w.bytes
  else if off % w.bytes ≠ 0 then 0
  else if inRegPage off then
    if w = .w32 then
      match regAt off with
      | some r => if s.status.busy && r.isResult then s.anyValue 4 else s.readReg r
      | none => 0
    else 0
  else BitVec.ofNat 32 (natOfBytesLE ((List.range w.bytes).map fun i => s.readBufByte (off + i) i))

/-- Deliver the value of a read to the host; the next read draws afresh (20_memory R69, log 4). -/
def State.deliver (s : State) (v : Word) : State :=
  { s with hostReads := v :: s.hostReads, draws := s.draws + 1 }

/-- The address of a register on the platform's bus (20_memory R60). -/
def State.regAddr (s : State) (r : Reg) : Word := s.cfg.base + BitVec.ofNat 32 r.offset

/-- What the reset input does: while it is asserted, and at the moment it is deasserted, every piece of the block's state takes
its reset value, a running command being abandoned; buffer contents are unspecified afresh (70_reset R330, R331,
log 11). The host's pending accesses and the values it has read stand outside the block. -/
def State.driveReset (s : State) (level : Bool) : State :=
  if level || s.resetLine then
    { State.afterReset s.cfg (s.epoch + 1) with
      resetLine := level, hostQueue := s.hostQueue, hostReads := s.hostReads, draws := s.draws }
  else s

/-- One input of the host port or the reset line (70_reset R334), already taken off the pending list. -/
def State.hostStep (s : State) (op : HostOp) : State :=
  match op with
  | .write w addr val => s.busWrite w addr val
  | .read w addr => s.deliver (s.busRead w addr)
  | .wait =>
    let v := s.busRead .w32 (s.regAddr .status)
    let s1 := s.deliver v
    if v.getLsbD 0 then { s1 with hostQueue := .wait :: s1.hostQueue } else s1
  | .resetLine level => s.driveReset level

end Sys2Proof.Machine
end

