-- ==== Sys2Proof/Machine/Tables.lean ====
section
/-! DEFINITION. The constant tables of 00_scope R7: character classes and indices, count-indicator widths, the block
table, the alignment coordinates, and the quantities computed from them. They are constants of the design, not state
(10_state R54). -/

namespace Sys2Proof.Machine

/-- The three modes (00_scope R4). -/
inductive Mode where
  | num | alnum | byte
deriving DecidableEq, Repr

/-- The four error-correction levels (00_scope R5). -/
inductive Level where
  | l | m | q | h
deriving DecidableEq, Repr

/-- The character classes of 40_segmenter R120. -/
inductive CharClass where
  | n | a | b
deriving DecidableEq, Repr

/-- ECL_REQ decodes as 0 = L, 1 = M, 2 = Q, 3 = H (10_state R36). -/
def Level.ofBits (x : BitVec 2) : Level :=
  if x = 0 then .l else if x = 1 then .m else if x = 2 then .q else .h

/-- The encoding of LEVEL_USED, as in ECL_REQ (10_state R43). -/
def Level.toBits : Level → BitVec 2
  | .l => 0
  | .m => 1
  | .q => 2
  | .h => 3

/-- The level bits of the format word; not the ECL_REQ encoding (43_matrix_layout R222). -/
def Level.formatBits : Level → Nat
  | .l => 1
  | .m => 0
  | .q => 3
  | .h => 2

/-- The mode indicator values (41_bitstream R150), also SEG_TABLE's MODE (10_state R48). -/
def Mode.indicator : Mode → Nat
  | .num => 1
  | .alnum => 2
  | .byte => 4

/-- The mode a MODE field names; none for a value that is no mode indicator (10_state R48). -/
def Mode.ofIndicator (x : Nat) : Option Mode :=
  if x = 1 then some .num else if x = 2 then some .alnum else if x = 4 then some .byte else none

/-- The special characters in the order of their indices 36 to 44: SPACE $ % * + - . / : (40_segmenter R120, R121). -/
def specialChars : List Nat := [0x20, 0x24, 0x25, 0x2A, 0x2B, 0x2D, 0x2E, 0x2F, 0x3A]

/-- The class of a byte (40_segmenter R120). -/
def classOf (b : Byte) : CharClass :=
  if 0x30 ≤ b.toNat ∧ b.toNat ≤ 0x39 then .n
  else if (0x41 ≤ b.toNat ∧ b.toNat ≤ 0x5A) ∨ b.toNat ∈ specialChars then .a
  else .b

/-- The alphanumeric index of a byte of the alphanumeric alphabet (40_segmenter R121). -/
def alnumIndex (b : Byte) : Nat :=
  if 0x30 ≤ b.toNat ∧ b.toNat ≤ 0x39 then b.toNat - 0x30
  else if 0x41 ≤ b.toNat ∧ b.toNat ≤ 0x5A then b.toNat - 0x41 + 10
  else 36 + specialChars.idxOf b.toNat

/-- cc(mode, v): the width of the character-count indicator (41_bitstream R151). -/
def ccBits (m : Mode) (v : Nat) : Nat :=
  match m with
  | .num => if v ≤ 9 then 10 else if v ≤ 26 then 12 else 14
  | .alnum => if v ≤ 9 then 9 else if v ≤ 26 then 11 else 13
  | .byte => if v ≤ 9 then 8 else 16

/-- N(v), the matrix side (00_scope R5). -/
def sideOf (v : Nat) : Nat := 4 * v + 17

/-- The total-codewords column of Table 41-1, versions 1 to 40 (41_bitstream R155). -/
def totalTable : List Nat :=
  [26, 44, 70, 100, 134, 172, 196, 242, 292, 346]
  ++ [404, 466, 532, 581, 655, 733, 815, 901, 991, 1085]
  ++ [1156, 1258, 1364, 1474, 1588, 1706, 1828, 1921, 2051, 2185]
  ++ [2323, 2465, 2611, 2761, 2876, 3034, 3196, 3362, 3532, 3706]

/-- The (EC codewords per block, number of blocks) columns of Table 41-1, versions 1 to 40, each row for the
levels L, M, Q, H (41_bitstream R155). -/
def blockTable : List ((Nat × Nat) × (Nat × Nat) × (Nat × Nat) × (Nat × Nat)) :=
  [((7, 1), (10, 1), (13, 1), (17, 1)),
   ((10, 1), (16, 1), (22, 1), (28, 1)),
   ((15, 1), (26, 1), (18, 2), (22, 2)),
   ((20, 1), (18, 2), (26, 2), (16, 4)),
   ((26, 1), (24, 2), (18, 4), (22, 4)),
   ((18, 2), (16, 4), (24, 4), (28, 4)),
   ((20, 2), (18, 4), (18, 6), (26, 5)),
   ((24, 2), (22, 4), (22, 6), (26, 6)),
   ((30, 2), (22, 5), (20, 8), (24, 8)),
   ((18, 4), (26, 5), (24, 8), (28, 8))]
  ++ [((20, 4), (30, 5), (28, 8), (24, 11)),
   ((24, 4), (22, 8), (26, 10), (28, 11)),
   ((26, 4), (22, 9), (24, 12), (22, 16)),
   ((30, 4), (24, 9), (20, 16), (24, 16)),
   ((22, 6), (24, 10), (30, 12), (24, 18)),
   ((24, 6), (28, 10), (24, 17), (30, 16)),
   ((28, 6), (28, 11), (28, 16), (28, 19)),
   ((30, 6), (26, 13), (28, 18), (28, 21)),
   ((28, 7), (26, 14), (26, 21), (26, 25)),
   ((28, 8), (26, 16), (30, 20), (28, 25))]
  ++ [((28, 8), (26, 17), (28, 23), (30, 25)),
   ((28, 9), (28, 17), (30, 23), (24, 34)),
   ((30, 9), (28, 18), (30, 25), (30, 30)),
   ((30, 10), (28, 20), (30, 27), (30, 32)),
   ((26, 12), (28, 21), (30, 29), (30, 35)),
   ((28, 12), (28, 23), (28, 34), (30, 37)),
   ((30, 12), (28, 25), (30, 34), (30, 40)),
   ((30, 13), (28, 26), (30, 35), (30, 42)),
   ((30, 14), (28, 28), (30, 38), (30, 45)),
   ((30, 15), (28, 29), (30, 40), (30, 48))]
  ++ [((30, 16), (28, 31), (30, 43), (30, 51)),
   ((30, 17), (28, 33), (30, 45), (30, 54)),
   ((30, 18), (28, 35), (30, 48), (30, 57)),
   ((30, 19), (28, 37), (30, 51), (30, 60)),
   ((30, 19), (28, 38), (30, 53), (30, 63)),
   ((30, 20), (28, 40), (30, 56), (30, 66)),
   ((30, 21), (28, 43), (30, 59), (30, 70)),
   ((30, 22), (28, 45), (30, 62), (30, 74)),
   ((30, 24), (28, 47), (30, 65), (30, 77)),
   ((30, 25), (28, 49), (30, 68), (30, 81))]

/-- Table 43-1: the alignment coordinates P(v), versions 1 to 40 (43_matrix_layout R215). -/
def alignmentTable : List (List Nat) :=
  [[], [6, 18], [6, 22], [6, 26], [6, 30], [6, 34], [6, 22, 38], [6, 24, 42], [6, 26, 46], [6, 28, 50]]
  ++ [[6, 30, 54], [6, 32, 58], [6, 34, 62], [6, 26, 46, 66], [6, 26, 48, 70], [6, 26, 50, 74], [6, 30, 54,
    78], [6, 30, 56, 82], [6, 30, 58, 86], [6, 34, 62, 90]]
  ++ [[6, 28, 50, 72, 94], [6, 26, 50, 74, 98], [6, 30, 54, 78, 102], [6, 28, 54, 80, 106], [6, 32, 58, 84,
    110], [6, 30, 58, 86, 114], [6, 34, 62, 90, 118], [6, 26, 50, 74, 98, 122], [6, 30, 54, 78, 102, 126],
    [6, 26, 52, 78, 104, 130]]
  ++ [[6, 30, 56, 82, 108, 134], [6, 34, 60, 86, 112, 138], [6, 30, 58, 86, 114, 142], [6, 34, 62, 90, 118,
    146], [6, 30, 54, 78, 102, 126, 150], [6, 24, 50, 76, 102, 128, 154], [6, 28, 54, 80, 106, 132, 158],
    [6, 32, 58, 84, 110, 136, 162], [6, 26, 54, 82, 110, 138, 166], [6, 30, 58, 86, 114, 142, 170]]

/-- TOTAL(v) (41_bitstream R155). -/
def totalCw (v : Nat) : Nat := totalTable.getD (v - 1) 0

/-- The block-table row of version v at a level: (EC, NB) (41_bitstream R155). -/
def blockRow (v : Nat) (lv : Level) : Nat × Nat :=
  match blockTable.getD (v - 1) ((0, 0), (0, 0), (0, 0), (0, 0)), lv with
  | (x, _, _, _), .l => x
  | (_, x, _, _), .m => x
  | (_, _, x, _), .q => x
  | (_, _, _, x), .h => x

/-- EC(v, level), the EC codewords of each block (41_bitstream R155). -/
def ecPerBlock (v : Nat) (lv : Level) : Nat := (blockRow v lv).1

/-- NB(v, level), the number of blocks (41_bitstream R155). -/
def numBlocks (v : Nat) (lv : Level) : Nat := (blockRow v lv).2

/-- DATA(v, level) = TOTAL(v) - EC(v, level) * NB(v, level) (41_bitstream R155). -/
def dataCw (v : Nat) (lv : Level) : Nat := totalCw v - ecPerBlock v lv * numBlocks v lv

/-- P(v) (43_matrix_layout R215). -/
def alignmentCoords (v : Nat) : List Nat := alignmentTable.getD (v - 1) []

/-- n_long, the number of long blocks (42_reed_solomon R184). -/
def numLong (v : Nat) (lv : Level) : Nat := totalCw v % numBlocks v lv

/-- n_short, the number of short blocks (42_reed_solomon R184). -/
def numShort (v : Nat) (lv : Level) : Nat := numBlocks v lv - numLong v lv

/-- short_data, the data codewords of a short block (42_reed_solomon R184). -/
def shortData (v : Nat) (lv : Level) : Nat := totalCw v / numBlocks v lv - ecPerBlock v lv

/-- RAW(v), the closed form of the number of available modules (43_matrix_layout R223). The layout itself decides the number;
that the two agree is a law, not a definition. -/
def rawModules (v : Nat) : Nat :=
  (16 * v + 128) * v + 64
    - (if 2 ≤ v then 25 * (v / 7 + 2) ^ 2 - 10 * (v / 7 + 2) - 55 else 0)
    - (if 7 ≤ v then 36 else 0)

end Sys2Proof.Machine
end

