-- ==== Sys2Proof/Machine/Segmenter.lean ====
section
/-! DEFINITION. The data segmenter and the bit packing of a segment's data (40_segmenter R122 to R129). -/

namespace Sys2Proof.Machine

/-- A segment: mode, start index in TEXT_BUF, count (40_segmenter R122). -/
structure Segment where
  mode : Mode
  start : Nat
  count : Nat
deriving DecidableEq, Repr

/-- mode_of (40_segmenter R123). -/
def modeOf : CharClass → Mode
  | .n => .num
  | .a => .alnum
  | .b => .byte

/-- The mode of the current segment after a character of class c joins it, or none where the "else" arm
closes it (40_segmenter R123). -/
def joinMode : Mode → CharClass → Option Mode
  | .num, .n => some .num
  | .num, .a => some .alnum
  | .alnum, .n => some .alnum
  | .alnum, .a => some .alnum
  | .byte, .b => some .byte
  | .num, .b => none
  | .alnum, .b => none
  | .byte, .n => none
  | .byte, .a => none

/-- The loop of 40_segmenter R123 from index i with the current segment `cur`, over the bytes not yet read. -/
def segmentLoop (cur : Segment) (i : Nat) : List Byte → List Segment
  | [] => [cur]
  | b :: rest =>
    match joinMode cur.mode (classOf b) with
    | some m => segmentLoop { cur with mode := m, count := cur.count + 1 } (i + 1) rest
    | none => cur :: segmentLoop { mode := modeOf (classOf b), start := i, count := 1 } (i + 1) rest

/-- segment(t[0..n-1]) (40_segmenter R123), which requires n >= 1; the empty text has no segment. -/
def segmentText : List Byte → List Segment
  | [] => []
  | b :: rest => segmentLoop { mode := modeOf (classOf b), start := 0, count := 1 } 1 rest

/-- pack_num over the digit values (40_segmenter R127). -/
def packNum : List Nat → List Bool
  | a :: b :: c :: rest => bitsMsb 10 (100 * a + 10 * b + c) ++ packNum rest
  | [a, b] => bitsMsb 7 (10 * a + b)
  | [a] => bitsMsb 4 a
  | [] => []

/-- pack_alnum over the alphanumeric indices (40_segmenter R128). -/
def packAlnum : List Nat → List Bool
  | a :: b :: rest => bitsMsb 11 (45 * a + b) ++ packAlnum rest
  | [a] => bitsMsb 6 a
  | [] => []

/-- pack: the data bits of a segment with the given bytes (40_segmenter R127 to R129). -/
def pack (m : Mode) (bytes : List Byte) : List Bool :=
  match m with
  | .num => packNum (bytes.map fun b => b.toNat - 0x30)
  | .alnum => packAlnum (bytes.map alnumIndex)
  | .byte => bytes.flatMap bitsOfByte

/-- data_bits(mode, n) (40_segmenter R129). -/
def dataBits (m : Mode) (n : Nat) : Nat :=
  match m with
  | .num => 10 * (n / 3) + (if n % 3 = 0 then 0 else if n % 3 = 1 then 4 else 7)
  | .alnum => 11 * (n / 2) + 6 * (n % 2)
  | .byte => 8 * n

end Sys2Proof.Machine
end

