-- ==== Sys2Proof/Machine/Bitstream.lean ====
section
/-! DEFINITION. Bitstream assembly, capacity and version selection: steps 1 and 2 of BUILD (41_bitstream R150 to R165). -/

namespace Sys2Proof.Machine

/-- A segment with its data, as BUILD reads it: the mode and the bytes TEXT[start .. start+count-1] (44_mask_penalty R250,
40_segmenter R122). Its count is the number of bytes. -/
structure SegData where
  mode : Mode
  bytes : List Byte
deriving DecidableEq, Repr

/-- The segment's count (40_segmenter R122). -/
def SegData.count (s : SegData) : Nat := s.bytes.length

/-- seg_bits(S, v) (41_bitstream R154). -/
def segBits (s : SegData) (v : Nat) : Nat := 4 + ccBits s.mode v + dataBits s.mode s.count

/-- required_bits(v), the terminator included (41_bitstream R154). -/
def requiredBits (ss : List SegData) (v : Nat) : Nat := (ss.map fun s => segBits s v).sum + 4

/-- required_bytes(v) (41_bitstream R154). -/
def requiredBytes (ss : List SegData) (v : Nat) : Nat := (requiredBits ss v + 7) / 8

/-- Version v fits at level l: every count fits its count indicator and the data fits the capacity (41_bitstream R152, R157). -/
def versionFits (ss : List SegData) (lv : Level) (v : Nat) : Bool :=
  (ss.all fun s => decide (s.count < 2 ^ ccBits s.mode v)) && decide (requiredBytes ss v ≤ dataCw v lv)

/-- select_version: the smallest version from 1 to 40 that fits; none is DataTooLong (41_bitstream R157). -/
def selectVersion (ss : List SegData) (lv : Level) : Option Nat :=
  (List.range' 1 40).find? (versionFits ss lv)

/-- One segment in the bitstream: mode indicator, count indicator, data (41_bitstream R159). -/
def segStream (v : Nat) (s : SegData) : List Bool :=
  bitsMsb 4 s.mode.indicator ++ bitsMsb (ccBits s.mode v) s.count ++ pack s.mode s.bytes

/-- The bitstream at version v (41_bitstream R159). -/
def bitstream (ss : List SegData) (v : Nat) : List Bool := ss.flatMap (segStream v)

/-- Zero bits up to the next multiple of 8 (41_bitstream R161). -/
def padToByte (bs : List Bool) : List Bool :=
  bs ++ List.replicate ((8 - bs.length % 8) % 8) false

/-- The pad codewords: 0xEC, 0x11, alternating (41_bitstream R163). -/
def padCodewords (n : Nat) : List Byte :=
  (List.range n).map fun i => if i % 2 = 0 then 0xEC else 0x11

/-- D[0..DATA-1]: the bitstream with the terminator, padded to bytes and then to the capacity (41_bitstream R160 to R163). -/
def dataCodewords (ss : List SegData) (v : Nat) (lv : Level) : List Byte :=
  let d := bytesOfBits (padToByte (bitstream ss v ++ [false, false, false, false]))
  d ++ padCodewords (dataCw v lv - d.length)

end Sys2Proof.Machine
end

