-- ==== Sys2Proof/Machine/Operands.lean ====
section
/-! DEFINITION. The operands of the commands: every one is implicit in a register or buffer, an unsigned integer in its
field (30_encoding R94). -/

namespace Sys2Proof.Machine

/-- n = TEXT_LEN.LEN (40_segmenter R130). -/
def State.textLen (s : State) : Nat := s.conf.textLen.toNat

/-- TEXT[start .. start+n-1] (40_segmenter R122, R130). -/
def State.textBytes (s : State) (start n : Nat) : List Byte :=
  s.readBytes (Window.base .textBuf + start) n

/-- The requested level (10_state R36). -/
def State.level (s : State) : Level := Level.ofBits s.conf.eclReq

/-- Word w of SEG_TABLE entry i (10_state R48, 20_memory R63). -/
def State.segWord (s : State) (i w : Nat) : Nat :=
  natOfBytesLE (s.readBytes (Window.base .segTable + 16 * i + 4 * w) 4)

/-- Entry i of SEG_TABLE as BUILD reads it: MODE = word 0 [3:0], START = word 1 [15:0], COUNT = word 2 [15:0] (10_state R48,
44_mask_penalty R250); none where MODE is no mode indicator. -/
def State.segEntry (s : State) (i : Nat) : Option Segment :=
  (Mode.ofIndicator (s.segWord i 0 % 16)).map fun m =>
    { mode := m, start := s.segWord i 1 % 65536, count := s.segWord i 2 % 65536 }

/-- SEG[0..SEG_COUNT-1]; none where an entry's MODE is no mode indicator, which SEGV = 1 rules out (log 8). -/
def State.segments (s : State) : Option (List Segment) :=
  (List.range s.segCount.toNat).mapM s.segEntry

/-- A segment with its data bytes, read from TEXT_BUF (44_mask_penalty R250). -/
def State.segData (s : State) (x : Segment) : SegData :=
  { mode := x.mode, bytes := s.textBytes x.start x.count }

/-- K and E of RS_ENCODE (42_reed_solomon R188). -/
def State.rsK (s : State) : Nat := s.conf.rsDataLen.toNat

/-- E of RS_ENCODE (42_reed_solomon R188). -/
def State.rsE (s : State) : Nat := s.conf.rsEcLen.toNat

/-- RSB[0..n-1] (42_reed_solomon R188). -/
def State.rsBytes (s : State) (n : Nat) : List Byte := s.readBytes (Window.base .rsBuf) n

/-- DARK(r, c) for 0 <= r, c < n, row by row: bit 0 of MAT[r][c] (45_rasterizer R270, 10_state R51). For n above 177, which is no
symbol's side, the same expression reads outside MAT (DESIGN CHOICE, log 22). -/
def State.matrixDark (s : State) (n : Nat) : Array Bool :=
  ((List.range n).flatMap fun r =>
    (s.readBytes (Window.base .matrixBuf + 177 * r) n).map fun b => b.getLsbD 0).toArray

end Sys2Proof.Machine
end

