-- ==== Sys2Proof/Machine/Layout.lean ====
section
/-! DEFINITION. The module matrix: fixed patterns, format and version words, data placement (43_matrix_layout R210 to R228).
A pattern is a partial colouring: some true is a dark module it draws, some false a light one, none a module it does not draw. -/

namespace Sys2Proof.Machine

/-- |a - b|. -/
def absDiff (a b : Nat) : Nat := (a - b) + (b - a)

/-- max(|dr|, |dc|), the ring of module (r, c) around the centre (r0, c0) (43_matrix_layout R214, R216). -/
def ringOf (r0 c0 r c : Nat) : Nat := max (absDiff r r0) (absDiff c c0)

/-- Timing patterns: row 6 and column 6, dark at even indices (43_matrix_layout R213). -/
def timingAt (r c : Nat) : Option Bool :=
  if r == 6 then some (c % 2 == 0) else if c == 6 then some (r % 2 == 0) else none

/-- One finder with its separator, centred at (r0, c0): the 9 x 9 square clipped to the matrix, rings 2 and 4 light
(43_matrix_layout R214). -/
def finderAt (r0 c0 r c : Nat) : Option Bool :=
  let d := ringOf r0 c0 r c
  if Nat.ble d 4 then some (d != 2 && d != 4) else none

/-- The three finders of a matrix of side n; their squares are disjoint (43_matrix_layout R214). -/
def findersAt (n r c : Nat) : Option Bool :=
  (finderAt 3 3 r c).or ((finderAt 3 (n - 4) r c).or (finderAt (n - 4) 3 r c))

/-- The alignment centres drawn: all pairs of coordinates but the three on the finders (43_matrix_layout R215). -/
def alignmentCentres (p : List Nat) : List (Nat × Nat) :=
  let first := p.headD 0
  let last := p.getLastD 0
  (p.flatMap fun r => p.map fun c => (r, c)).filter fun x =>
    !(x == (first, first) || x == (first, last) || x == (last, first))

/-- One alignment pattern centred at x: the 5 x 5 square, ring 1 light (43_matrix_layout R216). -/
def alignmentAt (x : Nat × Nat) (r c : Nat) : Option Bool :=
  let d := ringOf x.1 x.2 r c
  if Nat.ble d 2 then some (d != 1) else none

/-- The alignment patterns of version v; no two overlap (43_matrix_layout R215, R216). -/
def alignmentsAt (v r c : Nat) : Option Bool :=
  (alignmentCentres (alignmentCoords v)).findSome? fun x => alignmentAt x r c

/-- The position of bit F[i] in copy 1, around the top-left finder (43_matrix_layout R217). -/
def formatPos1 (i : Nat) : Nat × Nat :=
  if i ≤ 5 then (i, 8) else if i = 6 then (7, 8) else if i = 7 then (8, 8) else if i = 8 then (8, 7)
  else (8, 14 - i)

/-- The position of bit F[i] in copy 2, split between the other two finders (43_matrix_layout R217). -/
def formatPos2 (n i : Nat) : Nat × Nat :=
  if i ≤ 7 then (8, n - 1 - i) else (n - 15 + i, 8)

/-- The module (r, c) is a format position (43_matrix_layout R217). -/
def isFormatPos (n r c : Nat) : Bool :=
  (r == 8 || c == 8) && (List.range 15).any fun i => formatPos1 i == (r, c) || formatPos2 n i == (r, c)

/-- The format placeholders: every format position, light (43_matrix_layout R219). -/
def formatAt (n r c : Nat) : Option Bool := if isFormatPos n r c then some false else none

/-- The dark module at (N-8, 8) (43_matrix_layout R218). -/
def darkModuleAt (n r c : Nat) : Option Bool := if r == n - 8 && c == 8 then some true else none

/-- version_word(v) (43_matrix_layout R221). -/
def versionWord (v : Nat) : Nat :=
  let rem := (List.range 12).foldl (fun r _ => (r <<< 1) ^^^ ((r >>> 11) * 0x1F25)) v
  (v <<< 12) ||| (rem &&& 0xFFF)

/-- The version information, for v >= 7 only: V[i] with a = N - 11 + i mod 3 and b = i / 3 at (b, a) and (a, b)
(43_matrix_layout R220, R221). -/
def versionAt (v r c : Nat) : Option Bool :=
  let n := sideOf v
  if Nat.ble 7 v then
    if Nat.ble (n - 11) c && Nat.ble c (n - 9) && Nat.ble r 5 then
      some ((versionWord v).testBit (3 * r + (c - (n - 11))))
    else if Nat.ble (n - 11) r && Nat.ble r (n - 9) && Nat.ble c 5 then
      some ((versionWord v).testBit (3 * c + (r - (n - 11))))
    else none
  else none

/-- What step 6 draws at module (r, c). The patterns are drawn in the order timing, finders with separators, alignment,
format placeholders, dark module, version information, and where two overlap the later one's colour stands
(43_matrix_layout R212): the last that draws the module decides. -/
def patternAt (v r c : Nat) : Option Bool :=
  let n := sideOf v
  (versionAt v r c).or ((darkModuleAt n r c).or ((formatAt n r c).or
    ((alignmentsAt v r c).or ((findersAt n r c).or (timingAt r c)))))

/-- func(r, c) after step 6: a pattern draws the module (43_matrix_layout R211, R212). -/
def isFunction (v r c : Nat) : Bool := (patternAt v r c).isSome

/-- A module matrix of side n, each field a flat grid in which module (r, c) is element r*n + c (43_matrix_layout R210, R211). -/
structure Grid where
  side : Nat
  dark : Array Bool
  func : Array Bool
deriving DecidableEq, Repr

/-- DARK of module (r, c). -/
def Grid.darkAt (g : Grid) (r c : Nat) : Bool := g.dark.getD (r * g.side + c) false

/-- FUNC of module (r, c). -/
def Grid.funcAt (g : Grid) (r c : Nat) : Bool := g.func.getD (r * g.side + c) false

/-- Set the colour of module (r, c). -/
def Grid.setDark (g : Grid) (r c : Nat) (b : Bool) : Grid :=
  { g with dark := g.dark.setIfInBounds (r * g.side + c) b }

/-- The flat grid of side n of a function of row and column (43_matrix_layout R210). -/
def gridOf (n : Nat) (f : Nat → Nat → Bool) : Array Bool :=
  ((List.range n).flatMap fun r => (List.range n).map fun c => f r c).toArray

/-- layout(v): the matrix after step 6; a module no pattern draws is light and available (43_matrix_layout R212). -/
def layout (v : Nat) : Grid :=
  { side := sideOf v
    dark := gridOf (sideOf v) fun r c => (patternAt v r c).getD false
    func := gridOf (sideOf v) fun r c => isFunction v r c }

/-- format_word(level, k) (43_matrix_layout R222). -/
def formatWord (lv : Level) (k : Nat) : Nat :=
  let data := (lv.formatBits <<< 3) ||| k
  let rem := (List.range 10).foldl (fun r _ => (r <<< 1) ^^^ ((r >>> 9) * 0x537)) data
  ((data <<< 10) ||| (rem &&& 0x3FF)) ^^^ 0x5412

/-- The right column of the k-th column pair, and whether the pair runs upward: N-1, N-3, ..., 8, then 5, 3, 1 (column 6
is skipped), the first pair upward and the direction alternating (43_matrix_layout R224). -/
def columnPairs (n : Nat) : List (Nat × Bool) :=
  (List.range ((n - 1) / 2)).map fun k =>
    (if n - 1 - 2 * k ≤ 6 then n - 2 - 2 * k else n - 1 - 2 * k, k % 2 == 0)

/-- The modules of one column pair in the order of travel, right column first (43_matrix_layout R224). -/
def pairModules (n : Nat) (p : Nat × Bool) : List (Nat × Nat) :=
  (List.range n).flatMap fun step =>
    let r := if p.2 then n - 1 - step else step
    [(r, p.1), (r, p.1 - 1)]

/-- placement_order(v): the available modules in zigzag order (43_matrix_layout R224). -/
def placementOrder (v : Nat) : List (Nat × Nat) :=
  ((columnPairs (sideOf v)).flatMap (pairModules (sideOf v))).filter fun x => !isFunction v x.1 x.2

/-- place(C, v) into the matrix g: the codeword bits, bit 7 first, then light remainder modules; none where the codewords
are not TOTAL(v) many or their bits do not fit (43_matrix_layout R225 to R227). -/
def place (cw : List Byte) (v : Nat) (g : Grid) : Option Grid :=
  let ord := placementOrder v
  if cw.length ≠ totalCw v ∨ ord.length < 8 * cw.length then none
  else
    let bits := cw.flatMap bitsOfByte ++ List.replicate (ord.length - 8 * cw.length) false
    some ((ord.zip bits).foldl (fun g x => g.setDark x.1.1 x.1.2 x.2) g)

end Sys2Proof.Machine
end

