-- ==== Sys2Proof/Machine/Penalty.lean ====
section
/-! DEFINITION. The eight masks, the candidates, the four-part penalty score and the selection (44_mask_penalty R240 to R249). -/

namespace Sys2Proof.Machine

/-- m_k(i, j) (44_mask_penalty R240). -/
def maskBit (k i j : Nat) : Bool :=
  match k with
  | 0 => (i + j) % 2 == 0
  | 1 => i % 2 == 0
  | 2 => j % 3 == 0
  | 3 => (i + j) % 3 == 0
  | 4 => (i / 2 + j / 3) % 2 == 0
  | 5 => (i * j) % 2 + (i * j) % 3 == 0
  | 6 => ((i * j) % 2 + (i * j) % 3) % 2 == 0
  | 7 => ((i + j) % 2 + (i * j) % 3) % 2 == 0
  | _ => false

/-- Apply mask k: flip every module with func = 0 for which m_k is true (44_mask_penalty R241). -/
def Grid.applyMask (g : Grid) (k : Nat) : Grid :=
  { g with dark := ((g.dark.toList.zip g.func.toList).zipIdx.map fun x =>
      if x.1.2 then x.1.1 else x.1.1 ^^ maskBit k (x.2 / g.side) (x.2 % g.side)).toArray }

/-- write_format(X, F): bit i of F at the two positions of F[i] (44_mask_penalty R243). -/
def Grid.writeFormat (g : Grid) (f : Nat) : Grid :=
  (List.range 15).foldl (fun g i =>
    (g.setDark (formatPos1 i).1 (formatPos1 i).2 (f.testBit i)).setDark
      (formatPos2 g.side i).1 (formatPos2 g.side i).2 (f.testBit i)) g

/-- candidate(M, level, k) (44_mask_penalty R242). -/
def candidate (m : Grid) (lv : Level) (k : Nat) : Grid :=
  (m.applyMask k).writeFormat (formatWord lv k)

/-- Cut a flat grid into `k` rows of length n. -/
def chunkRows (n : Nat) : Nat → List Bool → List (List Bool)
  | 0, _ => []
  | k + 1, l => l.take n :: chunkRows n k (l.drop n)

/-- The rows of a matrix, top to bottom. -/
def Grid.rows (g : Grid) : List (List Bool) := chunkRows g.side g.side g.dark.toList

/-- The columns of a matrix, left to right. -/
def Grid.cols (g : Grid) : List (List Bool) :=
  (List.range g.side).map fun c => g.rows.map fun row => row.getD c false

/-- The 2N lines: the rows and the columns (44_mask_penalty, section 2). -/
def Grid.lines (g : Grid) : List (List Bool) := g.rows ++ g.cols

/-- The lengths of the maximal runs of a line whose first modules are a run of `len` of colour `c`. -/
def runsFrom (c : Bool) (len : Nat) : List Bool → List Nat
  | [] => [len]
  | b :: rest => if b = c then runsFrom c (len + 1) rest else len :: runsFrom b 1 rest

/-- The lengths of the maximal same-colour runs of a line (44_mask_penalty R244). -/
def runLengths : List Bool → List Nat
  | [] => []
  | b :: rest => runsFrom b 1 rest

/-- N1 of one line (44_mask_penalty R244). -/
def n1Line (l : List Bool) : Nat :=
  ((runLengths l).map fun len => if 5 ≤ len then 3 + (len - 5) else 0).sum

/-- The number of one-colour 2 x 2 blocks between two adjacent rows (44_mask_penalty R245). -/
def n2Rows : List Bool → List Bool → Nat
  | a :: b :: r, c :: d :: s =>
    (if a = b ∧ a = c ∧ a = d then 1 else 0) + n2Rows (b :: r) (d :: s)
  | _, _ => 0

/-- The number of one-colour 2 x 2 blocks of a list of rows (44_mask_penalty R245). -/
def n2Blocks : List (List Bool) → Nat
  | r :: s :: rest => n2Rows r s + n2Blocks (s :: rest)
  | _ => 0

/-- The sequence 1 0 1 1 1 0 1 (44_mask_penalty R246). -/
def finderLike : List Bool := [true, false, true, true, true, false, true]

/-- The finder-like occurrences of a line from a position on: `before` is the line before that position, nearest first
(44_mask_penalty R246). A position outside the line does not exist, so it is not in either list. -/
def n3From (before : List Bool) : List Bool → Nat
  | [] => 0
  | b :: rest =>
    (if (b :: rest).take 7 = finderLike
        ∧ (((before.take 4).all (· == false)) ∨ ((((b :: rest).drop 7).take 4).all (· == false))) then 1 else 0)
      + n3From (b :: before) rest

/-- N1(X) (44_mask_penalty R244). -/
def Grid.n1 (g : Grid) : Nat := (g.lines.map n1Line).sum

/-- N2(X) (44_mask_penalty R245). -/
def Grid.n2 (g : Grid) : Nat := 3 * n2Blocks g.rows

/-- N3(X) (44_mask_penalty R246). -/
def Grid.n3 (g : Grid) : Nat := 40 * (g.lines.map (n3From [])).sum

/-- N4(X), from t = N^2 and d, the number of dark modules (44_mask_penalty R247). -/
def Grid.n4 (g : Grid) : Nat :=
  10 * (absDiff (2 * g.dark.toList.count true) (g.side * g.side) * 10 / (g.side * g.side))

/-- P_k, the penalty score of a candidate (44_mask_penalty R248). -/
def Grid.penalty (g : Grid) : Nat := g.n1 + g.n2 + g.n3 + g.n4

/-- The smallest index at which a list of scores takes its minimum (44_mask_penalty R249). -/
def bestMask (ps : List Nat) : Nat := ps.idxOf (ps.foldl min (ps.headD 0))

end Sys2Proof.Machine
end

