-- ==== Sys2Proof/Machine/ReedSolomon.lean ====
section
/-! DEFINITION. GF(256), the generator polynomials, the Reed-Solomon division register, the block split and the
interleaving (42_reed_solomon R180 to R187). -/

namespace Sys2Proof.Machine

/-- One step of the antilog table: (x * 2) ^ (0x11D if x * 2 >= 0x100 else 0) (42_reed_solomon R181). -/
def gfDouble (x : Byte) : Byte :=
  BitVec.ofNat 8 (if 2 * x.toNat ≥ 0x100 then (2 * x.toNat) ^^^ 0x11D else 2 * x.toNat)

/-- `n` successive antilog entries from `x` on. -/
def gfPowers : Nat → Byte → List Byte
  | 0, _ => []
  | n + 1, x => x :: gfPowers n (gfDouble x)

/-- exp[0..254], the antilog table (42_reed_solomon R181). -/
def expTable : List Byte := gfPowers 255 1

/-- log[a] for a nonzero byte: the unique i in 0..254 with exp[i] = a (42_reed_solomon R181). -/
def gfLog (a : Byte) : Nat := expTable.idxOf a

/-- exp[i] (42_reed_solomon R181). -/
def gfExp (i : Nat) : Byte := expTable.getD i 0

/-- gf_mul (42_reed_solomon R181). -/
def gfMul (a b : Byte) : Byte :=
  if a = 0 ∨ b = 0 then 0 else gfExp ((gfLog a + gfLog b) % 255)

/-- Multiplication as 42_reed_solomon R180 defines it: polynomial multiplication over GF(2), reduced modulo 0x11D, one
bit of `a` at a time from bit 7 down. The machine multiplies by the tables (`gfMul`); that the two agree is a law. -/
def gfMulPoly (a b : Byte) : Byte :=
  (List.range 8).foldl (fun acc i => gfDouble acc ^^^ (if a.getLsbD (7 - i) then b else 0)) 0

/-- g_E(x), coefficients from x^E down to the constant: the product of (x - alpha^i) for i in 0..E-1 (42_reed_solomon R182). -/
def genPoly : Nat → List Byte
  | 0 => [1]
  | e + 1 =>
    List.zipWith (· ^^^ ·) (genPoly e ++ [0]) (0 :: (genPoly e).map (gfMul (gfExp (e % 255))))

/-- One step of the division register r for the next data codeword d, `g` being g[1..E] (42_reed_solomon R183). -/
def rsStep (g r : List Byte) (d : Byte) : List Byte :=
  let f := d ^^^ r.headD 0
  List.zipWith (fun x c => x ^^^ gfMul c f) (r.tail ++ [0]) g

/-- rs_ec(d[0..K-1], E) (42_reed_solomon R183). -/
def rsEc (d : List Byte) (e : Nat) : List Byte :=
  d.foldl (rsStep (genPoly e).tail) (List.replicate e 0)

/-- The data lengths of the blocks: short blocks first (42_reed_solomon R184). -/
def blockDataLens (v : Nat) (lv : Level) : List Nat :=
  List.replicate (numShort v lv) (shortData v lv) ++ List.replicate (numLong v lv) (shortData v lv + 1)

/-- Deal a codeword sequence out in order, to blocks of the given lengths (42_reed_solomon R185). -/
def dealOut : List Nat → List Byte → List (List Byte)
  | [], _ => []
  | n :: rest, d => d.take n :: dealOut rest (d.drop n)

/-- A block: its data codewords and its EC codewords (42_reed_solomon R183, R184). -/
structure Block where
  data : List Byte
  ec : List Byte
deriving DecidableEq, Repr

/-- split(D, v, level): the blocks with their EC codewords (42_reed_solomon R183 to R185). -/
def splitBlocks (d : List Byte) (v : Nat) (lv : Level) : List Block :=
  (dealOut (blockDataLens v lv) d).map fun x => { data := x, ec := rsEc x (ecPerBlock v lv) }

/-- One phase of the interleaving: round i takes codeword i of every list that has one (42_reed_solomon R186). -/
def roundRobin (rounds : Nat) (xs : List (List Byte)) : List Byte :=
  (List.range rounds).flatMap fun i => xs.filterMap fun x => x[i]?

/-- interleave: the data phase over long_data rounds, then the EC phase over EC rounds (42_reed_solomon R186). -/
def interleave (v : Nat) (lv : Level) (blocks : List Block) : List Byte :=
  roundRobin (shortData v lv + 1) (blocks.map Block.data)
    ++ roundRobin (ecPerBlock v lv) (blocks.map Block.ec)

/-- C[0..TOTAL-1], the final codeword sequence of the data codewords D (42_reed_solomon R186). -/
def finalCodewords (d : List Byte) (v : Nat) (lv : Level) : List Byte :=
  interleave v lv (splitBlocks d v lv)

end Sys2Proof.Machine
end

