-- ==== Sys2Proof/Machine/Build.lean ====
section
/-! DEFINITION. The BUILD command: steps 1 to 9 on the segment table left by SEGMENT (44_mask_penalty R250 to R252). -/

namespace Sys2Proof.Machine

/-- What a successful BUILD computes, before it is written (44_mask_penalty R251). -/
structure Symbol where
  version : Nat
  level : Level
  bitsUsed : Nat
  dcw : List Byte
  cw : List Byte
  penalties : List Nat
  mask : Nat
  matrix : Grid
deriving DecidableEq, Repr

/-- Steps 8 and 9 on the placed matrix m: the eight candidates, their scores, the committed one (44_mask_penalty R242 to R249). -/
def chooseMask (ss : List SegData) (lv : Level) (v : Nat) (d c : List Byte) (m : Grid) : Symbol :=
  let ps := (List.range 8).map fun k => (candidate m lv k).penalty
  { version := v, level := lv, bitsUsed := requiredBits ss v, dcw := d, cw := c,
    penalties := ps, mask := bestMask ps, matrix := candidate m lv (bestMask ps) }

/-- Steps 2 to 9 at the version chosen; none on a placement overflow (44_mask_penalty R250, 43_matrix_layout R227). -/
def encodeSymbol (ss : List SegData) (lv : Level) (v : Nat) : Option Symbol :=
  let d := dataCodewords ss v lv
  let c := finalCodewords d v lv
  (place c v (layout v)).map (chooseMask ss lv v d c)

/-- The BUILD result registers of a symbol (44_mask_penalty R251). -/
def Symbol.regs (y : Symbol) : BuildRegs :=
  { version := BitVec.ofNat 6 y.version
    side := BitVec.ofNat 8 (sideOf y.version)
    levelUsed := y.level.toBits
    maskUsed := BitVec.ofNat 3 y.mask
    dataCw := BitVec.ofNat 12 (dataCw y.version y.level)
    totalCw := BitVec.ofNat 12 (totalCw y.version)
    bitsUsed := BitVec.ofNat 16 y.bitsUsed
    reqBytes := BitVec.ofNat 32 ((y.bitsUsed + 7) / 8)
    capBytes := BitVec.ofNat 12 (dataCw y.version y.level)
    formatInfo := BitVec.ofNat 15 (formatWord y.level y.mask)
    versionInfo := if 7 ≤ y.version then BitVec.ofNat 18 (versionWord y.version) else 0
    penalty := Vector.ofFn fun k => BitVec.ofNat 32 (y.penalties.getD k.val 0) }

/-- The byte of module (r, c) in MATRIX_BUF: bit 0 DARK, bit 1 FUNC (10_state R51). -/
def Grid.moduleByte (g : Grid) (r c : Nat) : Byte :=
  BitVec.ofNat 8 ((g.darkAt r c).toNat + 2 * (g.funcAt r c).toNat)

/-- Write the matrix to MATRIX_BUF, row r at offset 177*r (10_state R51, 44_mask_penalty R251). -/
def State.writeMatrix (s : State) (g : Grid) : State :=
  (List.range g.side).foldl (fun s r =>
    s.writeBytes (Window.base .matrixBuf + 177 * r) ((List.range g.side).map (g.moduleByte r))) s

/-- Write the results of a successful BUILD (44_mask_penalty R251). -/
def State.writeSymbol (s : State) (y : Symbol) : State :=
  { ((s.writeBytes (Window.base .dcwBuf) y.dcw).writeBytes (Window.base .cwBuf) y.cw).writeMatrix y.matrix with
    build := y.regs, status := { s.status with symv := true } }

/-- The state at the start of a BUILD stage (44_mask_penalty R250). -/
def State.buildStart (s : State) : State :=
  { s with status := { s.status with symv := false, pixv := false }, build := {} }

/-- The DataTooLong report (41_bitstream R158, 44_mask_penalty R252). -/
def State.reportTooLong (s : State) (ss : List SegData) (lv : Level) : State :=
  { s with build := { s.build with
      reqBytes := BitVec.ofNat 32 (requiredBytes ss 40)
      capBytes := BitVec.ofNat 12 (dataCw 40 lv)
      levelUsed := lv.toBits } }

/-- After an InternalEncodingError the BUILD result registers hold any value: free values (44_mask_penalty R252, log 8). -/
def State.anyBuild (s : State) : State :=
  let x := fun k => Config.anyResult s.draws k
  { s with
    build := {
      version := (x 0).setWidth 6, side := (x 1).setWidth 8, levelUsed := (x 2).setWidth 2
      maskUsed := (x 3).setWidth 3, dataCw := (x 4).setWidth 12, totalCw := (x 5).setWidth 12
      bitsUsed := (x 6).setWidth 16, reqBytes := x 7, capBytes := (x 8).setWidth 12
      formatInfo := (x 9).setWidth 15, versionInfo := (x 10).setWidth 18
      penalty := Vector.ofFn fun k => x (11 + k.val) }
    draws := s.draws + 1 }

/-- BUILD after its SEGV check, on the segments S and the level (44_mask_penalty R250). -/
def buildSegments (s : State) (ss : List SegData) (lv : Level) : Stage :=
  match selectVersion ss lv with
  | none => .raised .dataTooLong (s.reportTooLong ss lv)
  | some v =>
    match encodeSymbol ss lv v with
    | none => .raised .internalEncodingError s.anyBuild
    | some y => .ok (s.writeSymbol y)

/-- The body of BUILD (44_mask_penalty R250). A segment table that names no mode is an invariant violation like a
placement overflow, and is reported as one (log 8). -/
def buildStage (s : State) : Stage :=
  let s1 := s.buildStart
  if s.status.segv = false then .raised .invalidInput s1
  else
    match s.segments with
    | none => .raised .internalEncodingError s1.anyBuild
    | some segs => buildSegments s1 (segs.map s.segData) s.level

/-- BUILD (44_mask_penalty R250). -/
def execBuild (s : State) : Host.Outcome State Fault Refusal :=
  .next (buildStage s).finish

end Sys2Proof.Machine
end

