-- ==== Sys2Proof/Machine/Raster.lean ====
section
/-! DEFINITION. The rasterizer and the RASTER command (45_rasterizer R270 to R276). -/

namespace Sys2Proof.Machine

/-- T = N + 2*M, the image side in modules (45_rasterizer R271). -/
def imageModules (n m : Nat) : Nat := n + 2 * m

/-- mp = max(1, floor(W / T)) (45_rasterizer R271). T = 0, which needs SIDE = 0 and is no symbol's, gives 1 (DESIGN CHOICE, log
22). -/
def modulePixels (w n m : Nat) : Nat := max 1 (w / imageModules n m)

/-- dim = mp * T (45_rasterizer R272). -/
def outDim (w n m : Nat) : Nat := modulePixels w n m * imageModules n m

/-- pixel(x, y), `dark` holding DARK(r, c) as element r*n + c (45_rasterizer R273). The test M <= floor(y / mp) is the
rule's 0 <= mr, on natural numbers. -/
def pixelWord (n m mp : Nat) (dark : Array Bool) (dc lc : Word) (x y : Nat) : Word :=
  if m ≤ y / mp ∧ y / mp - m < n ∧ m ≤ x / mp ∧ x / mp - m < n
      ∧ dark.getD ((y / mp - m) * n + (x / mp - m)) false = true then dc
  else lc

/-- The image in row-major order: PIX[y*dim + x] = pixel(x, y) (45_rasterizer R274). -/
def pixelWords (n m mp dim : Nat) (dark : Array Bool) (dc lc : Word) : List Word :=
  (List.range dim).flatMap fun y => (List.range dim).map fun x => pixelWord n m mp dark dc lc x y

/-- The state at the start of a RASTER stage (45_rasterizer R275). -/
def State.rasterStart (s : State) : State :=
  { s with status := { s.status with pixv := false }, raster := {} }

/-- W of RASTER (45_rasterizer R270). -/
def State.rasterW (s : State) : Nat := s.conf.pixelWidth.toNat

/-- M of RASTER (45_rasterizer R270). -/
def State.rasterM (s : State) : Nat := s.conf.margin.toNat

/-- N of RASTER (45_rasterizer R270). -/
def State.rasterN (s : State) : Nat := s.build.side.toNat

/-- MODULE_PX and OUT_DIM as RASTER computes them (45_rasterizer R275). -/
def State.writeRasterSize (s : State) : State :=
  { s with raster :=
      { modulePx := BitVec.ofNat 16 (modulePixels s.rasterW s.rasterN s.rasterM)
        outDim := BitVec.ofNat 16 (outDim s.rasterW s.rasterN s.rasterM) } }

/-- The pixel words RASTER writes (45_rasterizer R273, R274). -/
def State.image (s : State) : List Word :=
  pixelWords s.rasterN s.rasterM (modulePixels s.rasterW s.rasterN s.rasterM)
    (outDim s.rasterW s.rasterN s.rasterM) (s.matrixDark s.rasterN) s.conf.darkColor s.conf.lightColor

/-- The body of RASTER (45_rasterizer R275), with its checks in order (R276). -/
def rasterStage (s : State) : Stage :=
  let s1 := s.rasterStart
  if s.status.symv = false then .raised .invalidInput s1
  else if s.rasterW = 0 then .raised .invalidInput s1
  else
    let s2 := s1.writeRasterSize
    if s.cfg.pixMax < outDim s.rasterW s.rasterN s.rasterM * outDim s.rasterW s.rasterN s.rasterM then
      .raised .bufferOverflow s2
    else
      .ok { s2.writeBytes (Window.base .pixelBuf) (s.image.flatMap fun w => bytesLE 4 w.toNat) with
        status := { s2.status with pixv := true } }

/-- RASTER (45_rasterizer R275). -/
def execRaster (s : State) : Host.Outcome State Fault Refusal :=
  .next (rasterStage s).finish

end Sys2Proof.Machine
end

