-- ==== Sys2Proof/Machine/Segment.lean ====
section
/-! DEFINITION. The SEGMENT command (40_segmenter R130, R131). -/

namespace Sys2Proof.Machine

/-- The 16 bytes of a SEG_TABLE entry: words MODE, START, COUNT, DATA_BITS (10_state R48). -/
def segEntryBytes (x : Segment) : List Byte :=
  bytesLE 4 x.mode.indicator ++ bytesLE 4 x.start ++ bytesLE 4 x.count ++ bytesLE 4 (dataBits x.mode x.count)

/-- The state at the start of a SEGMENT stage: SEGV and SEG_COUNT cleared (40_segmenter R130). -/
def State.segmentStart (s : State) : State :=
  { s with status := { s.status with segv := false }, segCount := 0 }

/-- Write a segmentation: the table, its length, SEGV (40_segmenter R130). -/
def State.writeSegments (s : State) (segs : List Segment) : State :=
  { s.writeBytes (Window.base .segTable) (segs.flatMap segEntryBytes) with
    segCount := BitVec.ofNat 16 segs.length, status := { s.status with segv := true } }

/-- The body of SEGMENT (40_segmenter R130), with its checks in order (R131). -/
def segmentStage (s : State) : Stage :=
  let s1 := s.segmentStart
  if s.textLen = 0 then .raised .invalidInput s1
  else if s.cfg.textMax < s.textLen then .raised .invalidInput s1
  else .ok (s1.writeSegments (segmentText (s.textBytes 0 s.textLen)))

/-- SEGMENT (40_segmenter R130). -/
def execSegment (s : State) : Host.Outcome State Fault Refusal :=
  .next (segmentStage s).finish

end Sys2Proof.Machine
end

