-- ==== Sys2Proof/Machine/Control.lean ====
section
/-! DEFINITION. The control commands NOP and GENERATE (46_control R290, R291). -/

namespace Sys2Proof.Machine

/-- NOP computes nothing and completes (46_control R290). -/
def execNop (s : State) : Host.Outcome State Fault Refusal :=
  .next (Stage.ok s).finish

/-- The stages of GENERATE, stopping at the first error (46_control R291). -/
def generateStage (s : State) : Stage :=
  ((segmentStage s).andThen buildStage).andThen rasterStage

/-- GENERATE (46_control R291). -/
def execGenerate (s : State) : Host.Outcome State Fault Refusal :=
  .next (generateStage s).finish

end Sys2Proof.Machine
end

