-- ==== Sys2Proof/Machine/RsEncode.lean ====
section
/-! DEFINITION. The RS_ENCODE command (42_reed_solomon R188, R189). -/

namespace Sys2Proof.Machine

/-- RS_ENCODE's four checks, made together (42_reed_solomon R189). -/
def State.rsLegal (s : State) : Bool :=
  !(decide (s.rsK = 0) || decide (s.rsE = 0) || decide (s.cfg.rsMaxEc < s.rsE) || decide (255 < s.rsK + s.rsE))

/-- The body of RS_ENCODE (42_reed_solomon R188). -/
def rsEncodeStage (s : State) : Stage :=
  if s.rsLegal = false then .raised .invalidInput s
  else .ok (s.writeBytes (Window.base .rsBuf + s.rsK) (rsEc (s.rsBytes s.rsK) s.rsE))

/-- RS_ENCODE (42_reed_solomon R188). -/
def execRsEncode (s : State) : Host.Outcome State Fault Refusal :=
  .next (rsEncodeStage s).finish

end Sys2Proof.Machine
end

