-- ==== Sys2Proof/Machine/Dispatch.lean ====
section
/-! DEFINITION. One arm per command: its completion step (70_reset R337). -/

namespace Sys2Proof.Machine

def exec (i : Instr) (s : State) : Host.Outcome State Fault Refusal :=
  match i with
  | .nop => Sys2Proof.Machine.execNop s
  | .segment => Sys2Proof.Machine.execSegment s
  | .build => Sys2Proof.Machine.execBuild s
  | .raster => Sys2Proof.Machine.execRaster s
  | .generate => Sys2Proof.Machine.execGenerate s
  | .rsEncode => Sys2Proof.Machine.execRsEncode s

end Sys2Proof.Machine
end

