-- ==== Sys2Proof/Machine/Step.lean ====
section
/-! DEFINITION. One step of the block: the engine's completion, or one input (70_reset R334). -/

namespace Sys2Proof.Machine

/-- The completion step is due: the engine runs a command, and its delay has passed or no input is pending (70_reset
R334, R341, log 2). -/
def State.completionDue (s : State) : Bool :=
  decide (s.phase = .running) && (decide (s.delayLeft = 0) || s.hostQueue.isEmpty)

/-- complete(): run the whole command selected by LATCHED_OP, or ILLEGAL_COMMAND (70_reset R337). -/
def engineStep (s : State) : Host.Outcome State Fault Refusal :=
  match decode s.latchedOp with
  | .ok i => exec i s
  | .error _ => .next s.illegalCommand

/-- One step. With no command running and no input pending the block stays as it is (log 6). -/
def step (s : State) : Host.Outcome State Fault Refusal :=
  if s.completionDue then engineStep s
  else
    match s.hostQueue with
    | [] => .next s
    | op :: rest => .next (State.hostStep { s with hostQueue := rest, delayLeft := s.delayLeft - 1 } op)

/-- The block at the point where its very next step is the completion of the command whose word is the `nbits` bits
`w`: the state right after the acceptance of that word, with no delay left (log 7). -/
def State.withFetchWord (s : State) (nbits w : Nat) : State :=
  { s.accept (BitVec.ofNat 32 (w % 2 ^ nbits)) with delayLeft := 0 }

end Sys2Proof.Machine
end

