-- ==== Sys2Proof/Machine/HostProgram.lean ====
section
/-! DEFINITION. The host notation: the statements of 30_encoding R95 and the pseudo-operations of R96, expanded to bus
accesses for a block with the given parameters. -/

namespace Sys2Proof.Machine

/-- The platform address of an offset (20_memory R60). -/
def hostAddr (cfg : Config) (off : Nat) : Word := cfg.base + BitVec.ofNat 32 off

/-- WR32 off, val (30_encoding R95). -/
def wr32 (cfg : Config) (off : Nat) (val : Word) : HostOp := .write .w32 (hostAddr cfg off) val

/-- WR16 off, val (30_encoding R95). -/
def wr16 (cfg : Config) (off : Nat) (val : BitVec 16) : HostOp := .write .w16 (hostAddr cfg off) (val.setWidth 32)

/-- WR8 off, val (30_encoding R95). -/
def wr8 (cfg : Config) (off : Nat) (val : Byte) : HostOp := .write .w8 (hostAddr cfg off) (val.setWidth 32)

/-- RD32 off (30_encoding R95). -/
def rd32 (cfg : Config) (off : Nat) : HostOp := .read .w32 (hostAddr cfg off)

/-- RD8 off (30_encoding R95). -/
def rd8 (cfg : Config) (off : Nat) : HostOp := .read .w8 (hostAddr cfg off)

/-- CMD m (30_encoding R96). -/
def hostCmd (cfg : Config) (i : Instr) : HostOp := wr32 cfg Reg.cmd.offset (encode i)

/-- RUN m: CMD m, then WAIT (30_encoding R96). -/
def hostRun (cfg : Config) (i : Instr) : List HostOp := [hostCmd cfg i, .wait]

/-- WRS off, s: one byte write for each byte, in order (30_encoding R96). -/
def hostWrs (cfg : Config) (off : Nat) (bytes : List Byte) : List HostOp :=
  bytes.zipIdx.map fun x => wr8 cfg (off + x.2) x.1

/-- TEXT s: the bytes to TEXT_BUF, then their number to TEXT_LEN (30_encoding R96). -/
def hostText (cfg : Config) (bytes : List Byte) : List HostOp :=
  hostWrs cfg (Window.base .textBuf) bytes ++ [wr32 cfg Reg.textLen.offset (BitVec.ofNat 32 bytes.length)]

end Sys2Proof.Machine
end

