-- ==== Sys2Proof/Safety.lean ====
section
/-! DEFINITION. What a safe run is: the invariants of the block, in the terms the claims use. -/

namespace Sys2Proof.Machine

/-- The control state is consistent: BUSY = 1 exactly in phase RUNNING (10_state R27, R53), LATCHED_OP is the word CMD
holds (10_state R25, R53), DONE = 1 implies BUSY = 0 (10_state R28), ERR = 1 exactly when CODE != 0, and implies
DONE = 1 (10_state R29), and while reset is asserted the engine is IDLE (70_reset R330, R333). -/
structure ControlInv (s : State) : Prop where
  busy_iff_running : s.status.busy = true ↔ s.phase = .running
  latched_is_cmd : s.latchedOp = s.cmd
  done_not_busy : s.status.done = true → s.status.busy = false
  err_iff_code : s.status.err = true ↔ s.errcode ≠ .none
  err_done : s.status.err = true → s.status.done = true
  reset_idle : s.resetLine = true → s.phase = .idle

/-- Each of the `len` buffer bytes from `off` on has been written since reset, so that a host read of it returns its content
where the rules let the host see it (10_state R46, log 3, log 4). -/
def State.Listed (s : State) (off len : Nat) : Prop :=
  ∀ k, k < len → (Memory.get? s.mem (off + k)).isSome = true

/-- t holds the segmentation of the text of s: SEGV, SEG_COUNT and every word of the entries of SEG_TABLE, all written
(40_segmenter R130, 10_state R48). -/
structure SegmentResults (s t : State) : Prop where
  segv : t.status.segv = true
  count : t.segCount.toNat = (segmentText (s.textBytes 0 s.textLen)).length
  entries : ∀ i x, (segmentText (s.textBytes 0 s.textLen))[i]? = some x →
    t.segWord i 0 = x.mode.indicator ∧ t.segWord i 1 = x.start ∧ t.segWord i 2 = x.count
      ∧ t.segWord i 3 = dataBits x.mode x.count
  listed : t.Listed (Window.base .segTable) (16 * t.segCount.toNat)

/-- SEGV = 1 only where SEG_COUNT and all four words of each entry hold the segmentation of the current text, and BUILD reads
that segmentation from them (10_state R30, R48, 40_segmenter R130, R131). -/
def SegmentTableInv (s : State) : Prop :=
  s.status.segv = true →
    1 ≤ s.textLen ∧ s.textLen ≤ s.cfg.textMax ∧ SegmentResults s s
      ∧ s.segments = some (segmentText (s.textBytes 0 s.textLen))

/-- SYMV = 1 only where the BUILD result registers, DCW_BUF, CW_BUF and MATRIX_BUF hold the symbol of some segments at
some level, at the version selected for them, every byte of it written (10_state R31, 44_mask_penalty R251). -/
def SymbolInv (s : State) : Prop :=
  s.status.symv = true →
    ∃ ss lv v y, selectVersion ss lv = some v ∧ encodeSymbol ss lv v = some y ∧ s.build = y.regs
      ∧ s.readBytes (Window.base .dcwBuf) (dataCw v lv) = y.dcw ∧ s.Listed (Window.base .dcwBuf) (dataCw v lv)
      ∧ s.readBytes (Window.base .cwBuf) (totalCw v) = y.cw ∧ s.Listed (Window.base .cwBuf) (totalCw v)
      ∧ ∀ r c, r < sideOf v → c < sideOf v →
          s.byteAt (Window.base .matrixBuf + 177 * r + c) = y.matrix.moduleByte r c
            ∧ (Memory.get? s.mem (Window.base .matrixBuf + 177 * r + c)).isSome = true

/-- PIXV = 1 only beside SYMV = 1, and where MODULE_PX, OUT_DIM and PIXEL_BUF hold the image of the current MATRIX_BUF for
some width, margin and colours, every byte of it written (10_state R32, 45_rasterizer R275). -/
def ImageInv (s : State) : Prop :=
  s.status.pixv = true →
    s.status.symv = true ∧ ∃ w m dc lc, 1 ≤ w ∧ w < 65536 ∧ m < 256
      ∧ s.raster.modulePx.toNat = modulePixels w s.rasterN m ∧ s.raster.outDim.toNat = outDim w s.rasterN m
      ∧ outDim w s.rasterN m * outDim w s.rasterN m ≤ s.cfg.pixMax
      ∧ s.Listed (Window.base .pixelBuf) (4 * (outDim w s.rasterN m * outDim w s.rasterN m))
      ∧ s.readBytes (Window.base .pixelBuf) (4 * (outDim w s.rasterN m * outDim w s.rasterN m))
          = (pixelWords s.rasterN m (modulePixels w s.rasterN m) (outDim w s.rasterN m)
              (s.matrixDark s.rasterN) dc lc).flatMap fun x => bytesLE 4 x.toNat

/-- Every listed byte lies in a buffer window (10_state R40, 20_memory R61). -/
def MemoryInWindows (s : State) : Prop :=
  ∀ off b, Memory.get? s.mem off = some b → windowOf s.cfg off ≠ none

/-- t has the common completion bits of a command that completed with code e; OVR is as it was in s, where the command
ran (60_exceptions R307, R308). -/
structure CompletedWith (s t : State) (e : ErrCode) : Prop where
  phase : t.phase = .idle
  errcode : t.errcode = e
  busy : t.status.busy = false
  done : t.status.done = true
  err : t.status.err = decide (e ≠ .none)
  ovr : t.status.ovr = s.status.ovr

/-- What no command writes: CMD and LATCHED_OP, the configuration registers, and everything outside the block (10_state
R20); and none of the model's own counters. -/
structure EngineFrame (s t : State) : Prop where
  cfg : t.cfg = s.cfg
  cmd : t.cmd = s.cmd
  latchedOp : t.latchedOp = s.latchedOp
  conf : t.conf = s.conf
  resetLine : t.resetLine = s.resetLine
  hostQueue : t.hostQueue = s.hostQueue
  hostReads : t.hostReads = s.hostReads
  delayLeft : t.delayLeft = s.delayLeft
  draws : t.draws = s.draws
  epoch : t.epoch = s.epoch

/-- Every buffer byte but the `len` from `off` on reads in t as in s. -/
def SameBytesOutside (s t : State) (off len : Nat) : Prop :=
  ∀ a, a < off ∨ off + len ≤ a → t.byteAt a = s.byteAt a

/-- The offset is one a BUILD at version v and level lv stores to: DCW[0..DATA-1], CW[0..TOTAL-1], MAT[r][c] for r, c < N
(44_mask_penalty R251). -/
def StoredByBuild (v : Nat) (lv : Level) (a : Nat) : Prop :=
  (Window.base .dcwBuf ≤ a ∧ a < Window.base .dcwBuf + dataCw v lv)
    ∨ (Window.base .cwBuf ≤ a ∧ a < Window.base .cwBuf + totalCw v)
    ∨ ∃ r c, r < sideOf v ∧ c < sideOf v ∧ a = Window.base .matrixBuf + 177 * r + c

/-- k*, the mask committed for the placed matrix m at level lv (44_mask_penalty R249). -/
def committedMask (m : Grid) (lv : Level) : Nat :=
  bestMask ((List.range 8).map fun k => (candidate m lv k).penalty)

/-- t holds the results of a successful BUILD of the segments ss at level lv and version v, m being the placed matrix
(44_mask_penalty R251), every byte of them written. -/
structure BuildResults (ss : List SegData) (lv : Level) (v : Nat) (m : Grid) (t : State) : Prop where
  symv : t.status.symv = true
  version : t.build.version.toNat = v
  side : t.build.side.toNat = 4 * v + 17
  levelUsed : t.build.levelUsed = lv.toBits
  maskUsed : t.build.maskUsed.toNat = committedMask m lv
  dataCw : t.build.dataCw.toNat = dataCw v lv
  totalCw : t.build.totalCw.toNat = totalCw v
  bitsUsed : t.build.bitsUsed.toNat = requiredBits ss v
  reqBytes : t.build.reqBytes.toNat = requiredBytes ss v
  capBytes : t.build.capBytes.toNat = Machine.dataCw v lv
  formatInfo : t.build.formatInfo.toNat = formatWord lv (committedMask m lv)
  versionInfo : t.build.versionInfo.toNat = if 7 ≤ v then versionWord v else 0
  penalty : ∀ k : Fin 8, t.build.penalty[k.val] = BitVec.ofNat 32 (candidate m lv k.val).penalty
  dcw : t.readBytes (Window.base .dcwBuf) (Machine.dataCw v lv) = dataCodewords ss v lv
  dcwListed : t.Listed (Window.base .dcwBuf) (Machine.dataCw v lv)
  cw : t.readBytes (Window.base .cwBuf) (Machine.totalCw v) = finalCodewords (dataCodewords ss v lv) v lv
  cwListed : t.Listed (Window.base .cwBuf) (Machine.totalCw v)
  matrix : ∀ r c, r < sideOf v → c < sideOf v →
    t.byteAt (Window.base .matrixBuf + 177 * r + c)
      = BitVec.ofNat 8 (((candidate m lv (committedMask m lv)).darkAt r c).toNat + 2 * (isFunction v r c).toNat)
      ∧ (Memory.get? t.mem (Window.base .matrixBuf + 177 * r + c)).isSome = true

/-- t holds the image of the n x n matrix `dark`, with the width, margin and colours of s: T = n + 2*M, mp = max(1, floor(W/T)),
dim = mp*T, and pixel(x, y) at PIX[y*dim + x], every byte of it written (45_rasterizer R271 to R275). -/
structure RasterResults (n : Nat) (dark : Nat → Nat → Bool) (s t : State) : Prop where
  pixv : t.status.pixv = true
  modulePx : t.raster.modulePx.toNat = max 1 (s.rasterW / (n + 2 * s.rasterM))
  outDim : t.raster.outDim.toNat = t.raster.modulePx.toNat * (n + 2 * s.rasterM)
  pixels : ∀ x y, x < t.raster.outDim.toNat → y < t.raster.outDim.toNat →
    natOfBytesLE (t.readBytes (Window.base .pixelBuf + 4 * (y * t.raster.outDim.toNat + x)) 4)
      = (if s.rasterM ≤ y / t.raster.modulePx.toNat ∧ y / t.raster.modulePx.toNat < s.rasterM + n
            ∧ s.rasterM ≤ x / t.raster.modulePx.toNat ∧ x / t.raster.modulePx.toNat < s.rasterM + n
            ∧ dark (y / t.raster.modulePx.toNat - s.rasterM) (x / t.raster.modulePx.toNat - s.rasterM) = true
          then s.conf.darkColor else s.conf.lightColor).toNat
  listed : t.Listed (Window.base .pixelBuf) (4 * (t.raster.outDim.toNat * t.raster.outDim.toNat))

/-- The buffer byte at offset `a` is one whose content a host read returns (10_state R46 to R52, 20_memory R69): in TEXT_BUF;
in RS_BUF unless RS_ENCODE runs; while BUSY = 0, in a result window with its validity bit set and inside its defined
length. -/
def State.HostReadable (s : State) (a : Nat) : Prop :=
  (0x10000 ≤ a ∧ a < 0x10000 + s.cfg.textMax)
    ∨ (0x1000 ≤ a ∧ a < 0x1100 ∧ ¬(s.status.busy = true ∧ decode s.latchedOp = .ok .rsEncode))
    ∨ (s.status.busy = false ∧ s.status.segv = true
        ∧ 0x20000 ≤ a ∧ a < 0x20000 + 16 * s.segCount.toNat ∧ a < 0x20000 + 16 * s.cfg.segMax)
    ∨ (s.status.busy = false ∧ s.status.symv = true
        ∧ ((0x40000 ≤ a ∧ a < 0x40000 + s.build.dataCw.toNat ∧ a < 0x40B8C)
          ∨ (0x41000 ≤ a ∧ a < 0x41000 + s.build.totalCw.toNat ∧ a < 0x41E7A)
          ∨ ∃ r c, r < s.build.side.toNat ∧ c < s.build.side.toNat ∧ r < 177 ∧ c < 177 ∧ a = 0x50000 + 177 * r + c))
    ∨ (s.status.busy = false ∧ s.status.pixv = true
        ∧ 0x1000000 ≤ a ∧ a < 0x1000000 + 4 * (s.raster.outDim.toNat * s.raster.outDim.toNat)
        ∧ a < 0x1000000 + 4 * s.cfg.pixMax)

/-- The state after n steps, where each answers a next state. -/
def runSteps : Nat → State → Option State
  | 0, s => some s
  | n + 1, s =>
    match step s with
    | .next t => runSteps n t
    | .fault _ => none
    | .refused _ => none

/-- A run is safe at a state from which it goes on: the step answers a next state. -/
def Continues (s : State) : Prop := ∃ t, step s = .next t

end Sys2Proof.Machine
end

