-- ==== Sys2Proof/Certificates/Slice0/Obligations.lean ====
section
/-! DEFINITION. The statements about the block, for the provers. -/

open Sys2Proof Sys2Proof.Machine

/-! ### The command word and the step -/

/-- The opcode map (30_encoding R91): each command word decodes to its command, and is its encoding. -/
def Obligations.CommandWordsDecode : Prop :=
  decode 0x00000000 = .ok .nop ∧ decode 0x00000001 = .ok .segment ∧ decode 0x00000002 = .ok .build
    ∧ decode 0x00000003 = .ok .raster ∧ decode 0x00000004 = .ok .generate ∧ decode 0x00000005 = .ok .rsEncode
    ∧ encode .nop = 0x00000000 ∧ encode .segment = 0x00000001 ∧ encode .build = 0x00000002
    ∧ encode .raster = 0x00000003 ∧ encode .generate = 0x00000004 ∧ encode .rsEncode = 0x00000005

/-- Decoder and encoder agree in both directions on every word, every other word is rejected with its reason, and the
opcode-table form of the decoder is the same one (30_encoding R90 to R93). -/
def Obligations.DecodeEncodeAgree : Prop :=
  (∀ i, decode (encode i) = .ok i)
    ∧ (∀ w i, decode w = .ok i ↔ w = encode i)
    ∧ (∀ w, decode w = .error .reservedField ↔ w.toNat / 16 ≠ 0)
    ∧ (∀ w, decode w = .error .reservedOpcode ↔ w.toNat / 16 = 0 ∧ 6 ≤ w.toNat % 16)
    ∧ (∀ n w i, decodeTableWord n w = some i ↔ w % 2 ^ n = (encode i).toNat)

/-- A word that is no command (RSVD != 0, or OP 6 to 15: every word above 5) completes with ILLEGAL_COMMAND and changes no
validity bit, result or buffer; CMD keeps its word, which is the running one where the control state is consistent
(60_exceptions R304, 30_encoding R93). -/
def Obligations.IllegalWordCompletes : Prop :=
  ∀ s : State, s.completionDue = true → 6 ≤ s.latchedOp.toNat →
    ∃ t, step s = .next t ∧ CompletedWith s t .illegalCommand ∧ EngineFrame s t
      ∧ t.cmd = s.cmd ∧ (ControlInv s → t.cmd = s.latchedOp)
      ∧ t.status.segv = s.status.segv ∧ t.status.symv = s.status.symv ∧ t.status.pixv = s.status.pixv
      ∧ t.segCount = s.segCount ∧ t.build = s.build ∧ t.raster = s.raster ∧ t.mem = s.mem

/-- Where the completion is due, the step runs the command that LATCHED_OP decodes to (70_reset R337); and the step from the
state with a command word placed runs that command (the model's placement, log 7). -/
def Obligations.StepRunsDecodedCommand : Prop :=
  (∀ (s : State) i, s.completionDue = true → decode s.latchedOp = .ok i → step s = exec i s)
    ∧ ∀ (s : State) (w : Word) i, decode w = .ok i →
        (s.withFetchWord 32 w.toNat).latchedOp = w
          ∧ step (s.withFetchWord 32 w.toNat) = exec i (s.withFetchWord 32 w.toNat)

/-- Where no completion is due, the step takes the oldest pending input, one host step off the delay; with none pending the
block stays as it is (70_reset R334; the delay and the idle step are the model's, log 2, log 6). -/
def Obligations.StepTakesNextInput : Prop :=
  ∀ s : State, s.completionDue = false →
    (s.hostQueue = [] → step s = .next s)
      ∧ ∀ op rest, s.hostQueue = op :: rest →
          step s = .next (State.hostStep { s with hostQueue := rest, delayLeft := s.delayLeft - 1 } op)

/-- Every command completes from every state: phase IDLE, BUSY cleared, DONE set, ERR set to (CODE != 0), OVR as it was; and
no command reports ILLEGAL_COMMAND (10_state R28, R29, 60_exceptions R307, R308). No step stops the machine: for the commands
and the host port that is read from 60_exceptions R311 (DEDUCED, log 14), and for an idle block with no input it is the
model's own idle step (DESIGN CHOICE, log 6). -/
def Obligations.EveryCommandCompletes : Prop :=
  (∀ i (s : State), ∃ t, exec i s = .next t ∧ CompletedWith s t t.errcode ∧ t.errcode ≠ .illegalCommand)
    ∧ ∀ s : State, ∃ t, step s = .next t

/-- Every accepted command completes after finitely many host steps, where no reset is asserted or pending (70_reset R341; the
bound is the model's delay, log 2). What a reset does to a running command is ResetAbandonsCommand. -/
def Obligations.AcceptedCommandCompletes : Prop :=
  ∀ s : State, ControlInv s → s.phase = .running → s.resetLine = false →
    (∀ level, HostOp.resetLine level ∉ s.hostQueue) →
    ∃ n u t, n ≤ s.delayLeft ∧ runSteps n s = some u ∧ u.completionDue = true
      ∧ step u = .next t ∧ t.phase = .idle ∧ t.status.busy = false ∧ t.status.done = true

/-- From acceptance to completion nothing a command reads changes, whatever the host does but reset; so each command computes
the same from the state at its completion as from the state where it was accepted (70_reset R335). The BUILD result registers
are left out under an InternalEncodingError, after which they hold any value (44_mask_penalty R252). -/
def Obligations.InputsFrozenWhileRunning : Prop :=
  ∀ (s u : State) (n : Nat), ControlInv s → s.phase = .running → s.resetLine = false →
    (∀ level, HostOp.resetLine level ∉ s.hostQueue) →
    (∀ m, m < n → ∃ x, runSteps m s = some x ∧ x.completionDue = false) → runSteps n s = some u →
    u.phase = .running ∧ u.cmd = s.cmd ∧ u.latchedOp = s.latchedOp ∧ u.conf = s.conf ∧ u.mem = s.mem
      ∧ u.status.segv = s.status.segv ∧ u.status.symv = s.status.symv ∧ u.status.pixv = s.status.pixv
      ∧ u.segCount = s.segCount ∧ u.build = s.build ∧ u.raster = s.raster ∧ u.cfg = s.cfg ∧ u.epoch = s.epoch
      ∧ ∀ i t t', exec i s = .next t → exec i u = .next t' →
          t'.errcode = t.errcode ∧ t'.mem = t.mem ∧ t'.segCount = t.segCount ∧ t'.raster = t.raster
            ∧ (t.errcode ≠ .internalEncodingError → t'.build = t.build)
            ∧ t'.status.segv = t.status.segv ∧ t'.status.symv = t.status.symv ∧ t'.status.pixv = t.status.pixv

/-- The WAIT loop ends: a WAIT issued while a command runs is over after at most two steps more than the delay, BUSY being 0 in
the STATUS word it read last; one issued while the block is idle is over after the next step (30_encoding R96, 70_reset
R341; the delay is the model's, log 2). -/
def Obligations.WaitEnds : Prop :=
  ∀ (s : State) rest, ControlInv s → s.resetLine = false → s.hostQueue = .wait :: rest →
    (s.phase = .running →
      ∃ n u v vs, n ≤ s.delayLeft + 2 ∧ runSteps n s = some u ∧ u.hostQueue = rest ∧ u.status.busy = false
        ∧ u.hostReads = v :: vs ∧ v.getLsbD 0 = false)
    ∧ (s.phase = .idle →
      ∃ t v, step s = .next t ∧ t.hostQueue = rest ∧ t.status = s.status ∧ t.status.busy = false
        ∧ t.hostReads = v :: s.hostReads ∧ v.getLsbD 0 = false)

/-! ### Reset and the host port -/

/-- The reset values (10_state R56). -/
def Obligations.ResetValues : Prop :=
  State.reset.readReg .id = 0x51520001 ∧ State.reset.readReg .cmd = 0 ∧ State.reset.readReg .status = 0
    ∧ State.reset.readReg .errcode = 0 ∧ State.reset.readReg .textLen = 0 ∧ State.reset.readReg .eclReq = 1
    ∧ State.reset.readReg .pixelWidth = 300 ∧ State.reset.readReg .margin = 4
    ∧ State.reset.readReg .darkColor = 0x000000FF ∧ State.reset.readReg .lightColor = 0xFFFFFFFF
    ∧ State.reset.readReg .rsDataLen = 0 ∧ State.reset.readReg .rsEcLen = 0
    ∧ (∀ r : Reg, r.isResult = true → State.reset.readReg r = 0)
    ∧ State.reset.phase = .idle ∧ State.reset.latchedOp = 0
    ∧ ∀ a, Memory.get? State.reset.mem a = none

/-- While reset is asserted, and at the moment it is deasserted, every piece of state takes its reset value, so a running
command is abandoned with none of its results; host writes have no effect meanwhile (70_reset R330, R331). That the line is
driven by events among the inputs, and that the host's pending accesses and returned values outlive a reset, are the
model's choice (log 11). -/
def Obligations.ResetAbandonsCommand : Prop :=
  (∀ (s : State) level, level = true ∨ s.resetLine = true →
    let t := s.hostStep (.resetLine level)
    t.resetLine = level ∧ t.phase = .idle ∧ t.latchedOp = 0 ∧ t.cmd = 0 ∧ t.status = {} ∧ t.errcode = .none
      ∧ t.conf = { textLen := 0, eclReq := s.cfg.defaultEcl, pixelWidth := s.cfg.defaultPixelWidth,
                   margin := s.cfg.defaultMargin, darkColor := s.cfg.defaultDark,
                   lightColor := s.cfg.defaultLight, rsDataLen := 0, rsEcLen := 0 }
      ∧ (∀ r : Reg, r.isResult = true → t.readReg r = 0) ∧ (∀ a, Memory.get? t.mem a = none)
      ∧ t.cfg = s.cfg ∧ t.hostQueue = s.hostQueue ∧ t.hostReads = s.hostReads)
    ∧ ∀ (s : State) w a v, s.resetLine = true → s.hostStep (.write w a v) = s

/-- Acceptance (70_reset R336): exactly CMD, LATCHED_OP, BUSY, DONE, ERR, OVR, ERRCODE and the phase change. What the model's own
counters become is left open. -/
def Obligations.AcceptanceExact : Prop :=
  ∀ (s : State) (a w : Word), s.resetLine = false → s.status.busy = false → s.offsetOf a = 0x004 →
    ∃ delay drawn, s.hostStep (.write .w32 a w)
      = { s with cmd := w, latchedOp := w, errcode := .none, phase := .running
                 status := { s.status with busy := true, done := false, err := false, ovr := false }
                 delayLeft := delay, draws := drawn }

/-- While BUSY = 1 every host write is ignored, but a 32-bit one to CMD sets OVR (20_memory R68). That a narrow or misaligned
write to CMD sets no OVR is read from 20_memory R62 (DEDUCED, log 12). -/
def Obligations.BusyIgnoresWrites : Prop :=
  ∀ (s : State) (w : Width) (a v : Word), s.resetLine = false → s.status.busy = true →
    s.hostStep (.write w a v)
      = if w = .w32 ∧ s.offsetOf a = 0x004 then { s with status := { s.status with ovr := true } } else s

/-- A 32-bit write to a configuration register stores the low bits of its field and reads back so; no other register but
STATUS changes, and STATUS only by a TEXT_LEN write, which clears SEGV (10_state R23, R35 to R41, 20_memory R67). -/
def Obligations.ConfigRegisterWrite : Prop :=
  ∀ (s : State) (v : Word) (r : Reg) (field : Word),
    (r, field) ∈ [(Reg.textLen, 0xFFFF), (.eclReq, 0x3), (.pixelWidth, 0xFFFF), (.margin, 0xFF),
      (.darkColor, 0xFFFFFFFF), (.lightColor, 0xFFFFFFFF), (.rsDataLen, 0xFF), (.rsEcLen, 0xFF)] →
    s.resetLine = false → s.status.busy = false →
    let t := s.hostStep (.write .w32 (s.regAddr r) v)
    t.busRead .w32 (s.regAddr r) = v &&& field
      ∧ (∀ q, q ≠ r → q ≠ .status → t.readReg q = s.readReg q)
      ∧ t.status = (if r = .textLen then { s.status with segv := false } else s.status)
      ∧ t.phase = s.phase ∧ t.latchedOp = s.latchedOp ∧ t.mem = s.mem ∧ t.cfg = s.cfg ∧ t.resetLine = s.resetLine
      ∧ t.hostQueue = s.hostQueue ∧ t.hostReads = s.hostReads ∧ t.epoch = s.epoch

/-- The side effects of accepted host writes: a CMD write issues a command, a write to TEXT_LEN or to any byte of TEXT_BUF
clears SEGV, and no other write has one: a register write stores in no buffer, a buffer write changes no register (20_memory
R67). Where TEXT_MAX is no multiple of 4, a wide access that starts in
TEXT_BUF and ends past it is taken byte by byte, so it clears SEGV (DEDUCED, log 9). -/
def Obligations.WriteSideEffects : Prop :=
  ∀ (s : State) (w : Width) (a v : Word), s.resetLine = false → s.status.busy = false →
    (w = .w32 ∧ s.offsetOf a = 0x004 → s.hostStep (.write w a v) = s.accept v)
      ∧ (¬(w = .w32 ∧ s.offsetOf a = 0x004) →
          let t := s.hostStep (.write w a v)
          t.status = (if (w = .w32 ∧ s.offsetOf a = 0x010)
              ∨ (s.offsetOf a % w.bytes = 0 ∧ 0x10000 ≤ s.offsetOf a ∧ s.offsetOf a < 0x10000 + s.cfg.textMax)
            then { s.status with segv := false } else s.status)
          ∧ (0x1000 ≤ s.offsetOf a → t.conf = s.conf) ∧ (s.offsetOf a < 0x1000 → t.mem = s.mem)
          ∧ t.cmd = s.cmd ∧ t.latchedOp = s.latchedOp ∧ t.phase = s.phase ∧ t.errcode = s.errcode
          ∧ t.segCount = s.segCount ∧ t.build = s.build ∧ t.raster = s.raster ∧ t.cfg = s.cfg
          ∧ t.resetLine = s.resetLine ∧ t.hostQueue = s.hostQueue ∧ t.hostReads = s.hostReads ∧ t.epoch = s.epoch)

/-- A register access that is not 32 bits wide or not 4-byte aligned is ignored if a write and returns 0 if a read (20_memory
R62); so a narrow write to CMD issues no command. That it sets no OVR while BUSY = 1 is read from R62 (DEDUCED, log 12), and
that such a read of a result register returns 0 while BUSY = 1 too is the model's choice (log 23). -/
def Obligations.NarrowRegisterAccessIgnored : Prop :=
  ∀ (s : State) (w : Width) (a v : Word), s.resetLine = false → s.offsetOf a < 0x1000 →
    w ≠ .w32 ∨ s.offsetOf a % 4 ≠ 0 →
    s.hostStep (.write w a v) = s ∧ s.busRead w a = 0

/-- Writes to the read-only windows and to the read-only registers are ignored (20_memory R64). -/
def Obligations.ReadOnlyWritesIgnored : Prop :=
  ∀ (s : State) (w : Width) (a v : Word),
    (windowOf s.cfg (s.offsetOf a) ∈ [some Window.segTable, some .dcwBuf, some .cwBuf, some .matrixBuf, some .pixelBuf]
      ∨ ∃ r : Reg, (r.isResult = true ∨ r = .id ∨ r = .status ∨ r = .errcode) ∧ s.offsetOf a = r.offset) →
    s.hostStep (.write w a v) = s

/-- Unmapped offsets: a read returns 0 and a write is ignored, in the gaps of the register page and where no byte of an aligned
access lies in a window (20_memory R65). -/
def Obligations.UnmappedAccess : Prop :=
  (∀ (s : State) (w : Width) (a v : Word), s.resetLine = false →
    (0x030 ≤ s.offsetOf a ∧ s.offsetOf a < 0x040) ∨ (0x078 ≤ s.offsetOf a ∧ s.offsetOf a < 0x080)
      ∨ (0x0A0 ≤ s.offsetOf a ∧ s.offsetOf a < 0x1000) →
    s.hostStep (.write w a v) = s ∧ s.busRead w a = 0)
  ∧ (∀ (s : State) (w : Width) (a v : Word), s.resetLine = false → 0x1000 ≤ s.offsetOf a →
    (∀ i, i < w.bytes → windowOf s.cfg (s.offsetOf a + i) = none) →
    s.hostStep (.write w a v) = s ∧ s.busRead w a = 0)
  ∧ ∀ (cfg : Config) (off : Nat), cfg.wellFormed = true →
    (windowOf cfg off = none ↔ ¬((0x1000 ≤ off ∧ off < 0x1100) ∨ (0x10000 ≤ off ∧ off < 0x10000 + cfg.textMax)
      ∨ (0x20000 ≤ off ∧ off < 0x20000 + 16 * cfg.segMax) ∨ (0x40000 ≤ off ∧ off < 0x40B8C)
      ∨ (0x41000 ≤ off ∧ off < 0x41E7A) ∨ (0x50000 ≤ off ∧ off < 0x57A61)
      ∨ (0x1000000 ≤ off ∧ off < 0x1000000 + 4 * cfg.pixMax)))

/-- The two writable buffers store aligned accesses of 8, 16 and 32 bits in little-endian order, and every aligned read of 8, 16
or 32 bits inside the bytes written returns its part of the value, zero-extended; no other byte changes (20_memory R63, R70). -/
def Obligations.BufferWriteReadBack : Prop :=
  ∀ (s : State) (w : Width) (a v : Word), s.cfg.wellFormed = true → s.resetLine = false → s.status.busy = false →
    s.offsetOf a % w.bytes = 0 →
    (0x1000 ≤ s.offsetOf a ∧ s.offsetOf a + w.bytes ≤ 0x1100)
      ∨ (0x10000 ≤ s.offsetOf a ∧ s.offsetOf a + w.bytes ≤ 0x10000 + s.cfg.textMax) →
    let t := s.hostStep (.write w a v)
    (∀ (r : Width) j, j % r.bytes = 0 → j + r.bytes ≤ w.bytes →
        t.busRead r (a + BitVec.ofNat 32 j) = BitVec.ofNat 32 (v.toNat / 256 ^ j % 256 ^ r.bytes))
      ∧ ∀ b, b < s.offsetOf a ∨ s.offsetOf a + w.bytes ≤ b → Memory.get? t.mem b = Memory.get? s.mem b

/-- What host reads return. A read changes nothing but what the host has read. The control and configuration registers read
their value at any time, ERRCODE reading 0 while a command runs; every result register reads its value while BUSY = 0; and
an aligned read of 8, 16 or 32 bits returns the little-endian value of its buffer bytes, zero-extended, where the rules let
the host see each of them and each has been written (10_state R24 to R52, 20_memory R63, R66, R69, R71). -/
def Obligations.HostReadValues : Prop :=
  ∀ s : State, s.cfg.wellFormed = true → s.resetLine = false →
    (∀ w a, ∃ drawn, s.hostStep (.read w a) = { s with hostReads := s.busRead w a :: s.hostReads, draws := drawn })
    ∧ (∀ off v, (off, v) ∈ [(0x000, s.cfg.idValue), (0x004, s.cmd),
          (0x008, 0#25 ++ BitVec.ofBool s.status.ovr ++ BitVec.ofBool s.status.pixv ++ BitVec.ofBool s.status.symv
            ++ BitVec.ofBool s.status.segv ++ BitVec.ofBool s.status.err ++ BitVec.ofBool s.status.done
            ++ BitVec.ofBool s.status.busy),
          (0x00C, match s.errcode with
            | .none => 0 | .invalidInput => 1 | .dataTooLong => 2 | .internalEncodingError => 3
            | .illegalCommand => 4 | .bufferOverflow => 5),
          (0x010, s.conf.textLen.setWidth 32), (0x014, s.conf.eclReq.setWidth 32),
          (0x018, s.conf.pixelWidth.setWidth 32), (0x01C, s.conf.margin.setWidth 32), (0x020, s.conf.darkColor),
          (0x024, s.conf.lightColor), (0x028, s.conf.rsDataLen.setWidth 32), (0x02C, s.conf.rsEcLen.setWidth 32)] →
        s.busRead .w32 (s.cfg.base + BitVec.ofNat 32 off) = v)
    ∧ (ControlInv s → s.status.busy = true → s.busRead .w32 (s.cfg.base + 0x00C) = 0)
    ∧ (s.status.busy = false →
        (∀ off v, (off, v) ∈ [(0x040, s.segCount.setWidth 32), (0x044, s.build.version.setWidth 32),
            (0x048, s.build.side.setWidth 32), (0x04C, s.build.levelUsed.setWidth 32),
            (0x050, s.build.maskUsed.setWidth 32), (0x054, s.build.dataCw.setWidth 32),
            (0x058, s.build.totalCw.setWidth 32), (0x05C, s.build.bitsUsed.setWidth 32), (0x060, s.build.reqBytes),
            (0x064, s.build.capBytes.setWidth 32), (0x068, s.raster.modulePx.setWidth 32),
            (0x06C, s.raster.outDim.setWidth 32), (0x070, s.build.formatInfo.setWidth 32),
            (0x074, s.build.versionInfo.setWidth 32)] →
          s.busRead .w32 (s.cfg.base + BitVec.ofNat 32 off) = v)
        ∧ ∀ k : Fin 8, s.busRead .w32 (s.cfg.base + BitVec.ofNat 32 (0x080 + 4 * k.val)) = s.build.penalty[k.val])
    ∧ ∀ (w : Width) off, off % w.bytes = 0 →
        (∀ i, i < w.bytes → s.HostReadable (off + i) ∧ (Memory.get? s.mem (off + i)).isSome = true) →
        s.busRead w (s.cfg.base + BitVec.ofNat 32 off)
          = BitVec.ofNat 32 (((List.range w.bytes).map fun i => (s.byteAt (off + i)).toNat * 256 ^ i).sum)

/-! ### The commands -/

/-- NOP completes without error and changes only the common completion bits (46_control R290). -/
def Obligations.NopCompletes : Prop :=
  ∀ s : State, ∃ t, exec .nop s = .next t ∧ CompletedWith s t .none ∧ EngineFrame s t
    ∧ t.status.segv = s.status.segv ∧ t.status.symv = s.status.symv ∧ t.status.pixv = s.status.pixv
    ∧ t.segCount = s.segCount ∧ t.build = s.build ∧ t.raster = s.raster ∧ t.mem = s.mem

/-- SEGMENT of a text of legal length completes, writes the segmentation, every word of its entries, and sets SEGV; it changes
no other result and no byte but its entries (40_segmenter R130, 10_state R42, R48). -/
def Obligations.SegmentCompletes : Prop :=
  ∀ s : State, s.cfg.wellFormed = true → 1 ≤ s.textLen → s.textLen ≤ s.cfg.textMax →
    ∃ t, exec .segment s = .next t ∧ CompletedWith s t .none ∧ EngineFrame s t ∧ SegmentResults s t
      ∧ 1 ≤ t.segCount.toNat ∧ t.segCount.toNat ≤ s.textLen
      ∧ t.status.symv = s.status.symv ∧ t.status.pixv = s.status.pixv ∧ t.build = s.build ∧ t.raster = s.raster
      ∧ SameBytesOutside s t 0x20000 (16 * t.segCount.toNat)

/-- SEGMENT rejects an empty text and one longer than TEXT_MAX with InvalidInput, leaving SEG_COUNT = 0 and SEGV = 0 and
nothing else changed (40_segmenter R131). -/
def Obligations.SegmentRejects : Prop :=
  ∀ s : State, s.textLen = 0 ∨ s.cfg.textMax < s.textLen →
    ∃ t, exec .segment s = .next t ∧ CompletedWith s t .invalidInput ∧ EngineFrame s t
      ∧ t.status.segv = false ∧ t.segCount = 0
      ∧ t.status.symv = s.status.symv ∧ t.status.pixv = s.status.pixv ∧ t.build = s.build ∧ t.raster = s.raster
      ∧ t.mem = s.mem

/-- BUILD on a valid segment table whose data some version holds completes at the smallest such version, with every
result register, DCW_BUF, CW_BUF and MATRIX_BUF as the rules give them, PIXV cleared, and nothing else changed
(44_mask_penalty R250, R251). On a table that no SEGMENT leaves, the outcome is the model's choice (log 21). -/
def Obligations.BuildCompletes : Prop :=
  ∀ (s : State) segs v, s.status.segv = true → s.segments = some segs →
    selectVersion (segs.map s.segData) s.level = some v →
    ∃ m t, place (finalCodewords (dataCodewords (segs.map s.segData) v s.level) v s.level) v (layout v) = some m
      ∧ exec .build s = .next t ∧ CompletedWith s t .none ∧ EngineFrame s t
      ∧ BuildResults (segs.map s.segData) s.level v m t ∧ t.build.levelUsed = s.conf.eclReq
      ∧ t.status.segv = true ∧ t.status.pixv = false ∧ t.segCount = s.segCount ∧ t.raster = s.raster
      ∧ ∀ a, ¬StoredByBuild v s.level a → t.byteAt a = s.byteAt a

/-- BUILD without a valid segment table fails with InvalidInput, SYMV = PIXV = 0, every BUILD result register 0, and nothing
else changed (44_mask_penalty R252). -/
def Obligations.BuildRejects : Prop :=
  ∀ s : State, s.status.segv = false →
    ∃ t, exec .build s = .next t ∧ CompletedWith s t .invalidInput ∧ EngineFrame s t
      ∧ t.status.segv = false ∧ t.status.symv = false ∧ t.status.pixv = false ∧ t.build = {}
      ∧ t.segCount = s.segCount ∧ t.raster = s.raster ∧ t.mem = s.mem

/-- Where no version from 1 to 40 fits, BUILD fails with DataTooLong and records REQ_BYTES = required_bytes(40), CAP_BYTES =
DATA(40, level) and LEVEL_USED; every other BUILD register is 0 (41_bitstream R158, 44_mask_penalty R252). -/
def Obligations.BuildTooLong : Prop :=
  ∀ (s : State) segs, s.status.segv = true → s.segments = some segs →
    (∀ v, 1 ≤ v → v ≤ 40 → (∃ x ∈ segs.map s.segData, 2 ^ ccBits x.mode v ≤ x.count)
      ∨ dataCw v s.level < requiredBytes (segs.map s.segData) v) →
    ∃ t, exec .build s = .next t ∧ CompletedWith s t .dataTooLong ∧ EngineFrame s t
      ∧ t.status.segv = true ∧ t.status.symv = false ∧ t.status.pixv = false
      ∧ t.build = { reqBytes := BitVec.ofNat 32 (requiredBytes (segs.map s.segData) 40)
                    capBytes := t.build.capBytes, levelUsed := s.conf.eclReq }
      ∧ t.build.capBytes.toNat = dataCw 40 s.level
      ∧ t.segCount = s.segCount ∧ t.raster = s.raster ∧ t.mem = s.mem

/-- RASTER of a valid symbol with W > 0 and an image that fits completes: MODULE_PX, OUT_DIM and every pixel as the rules
give them from SIDE and the DARK bits of MATRIX_BUF; nothing else changes (45_rasterizer R273 to R275). In states that no run
reaches, what is read for a SIDE above 177, and the module size where T = 0 (SIDE = MARGIN = 0), are the model's choice
(log 22). -/
def Obligations.RasterCompletes : Prop :=
  ∀ s : State, s.status.symv = true → s.rasterW ≠ 0 →
    outDim s.rasterW s.rasterN s.rasterM * outDim s.rasterW s.rasterN s.rasterM ≤ s.cfg.pixMax →
    ∃ t, exec .raster s = .next t ∧ CompletedWith s t .none ∧ EngineFrame s t
      ∧ RasterResults s.rasterN (fun r c => (s.byteAt (0x50000 + 177 * r + c)).getLsbD 0) s t
      ∧ t.status.segv = s.status.segv ∧ t.status.symv = true ∧ t.segCount = s.segCount ∧ t.build = s.build
      ∧ SameBytesOutside s t 0x1000000 (4 * (t.raster.outDim.toNat * t.raster.outDim.toNat))

/-- The geometry of every image whose size RASTER computes, N being at least 21: mp = max(1, floor(W / T)), dim = mp*T, a
positive multiple of mp; dim <= W with W - dim < T where W >= T, and mp = 1, dim = T > W where W < T (45_rasterizer R271, R272). -/
def Obligations.RasterGeometry : Prop :=
  ∀ s : State, s.status.symv = true → s.rasterW ≠ 0 → 21 ≤ s.rasterN →
    ∃ t, exec .raster s = .next t
      ∧ t.raster.modulePx.toNat = max 1 (s.rasterW / (s.rasterN + 2 * s.rasterM))
      ∧ t.raster.outDim.toNat = t.raster.modulePx.toNat * (s.rasterN + 2 * s.rasterM)
      ∧ 1 ≤ t.raster.outDim.toNat ∧ t.raster.modulePx.toNat ∣ t.raster.outDim.toNat
      ∧ (s.rasterN + 2 * s.rasterM ≤ s.rasterW → t.raster.outDim.toNat ≤ s.rasterW
          ∧ s.rasterW - t.raster.outDim.toNat < s.rasterN + 2 * s.rasterM)
      ∧ (s.rasterW < s.rasterN + 2 * s.rasterM → t.raster.modulePx.toNat = 1
          ∧ t.raster.outDim.toNat = s.rasterN + 2 * s.rasterM ∧ s.rasterW < t.raster.outDim.toNat)

/-- RASTER's checks in order: SYMV = 0, then W = 0, raise InvalidInput with MODULE_PX = OUT_DIM = 0; then an image larger than
PIX_MAX raises BufferOverflow with the computed sizes. PIXV = 0 and nothing else changes (45_rasterizer R276). -/
def Obligations.RasterRejects : Prop :=
  ∀ s : State,
    ((s.status.symv = false ∨ s.rasterW = 0) →
      ∃ t, exec .raster s = .next t ∧ CompletedWith s t .invalidInput ∧ EngineFrame s t
        ∧ t.raster.modulePx = 0 ∧ t.raster.outDim = 0 ∧ t.status.pixv = false
        ∧ t.status.segv = s.status.segv ∧ t.status.symv = s.status.symv
        ∧ t.segCount = s.segCount ∧ t.build = s.build ∧ t.mem = s.mem)
    ∧ (s.status.symv = true → s.rasterW ≠ 0 →
      s.cfg.pixMax < outDim s.rasterW s.rasterN s.rasterM * outDim s.rasterW s.rasterN s.rasterM →
      ∃ t, exec .raster s = .next t ∧ CompletedWith s t .bufferOverflow ∧ EngineFrame s t
        ∧ t.raster.modulePx.toNat = modulePixels s.rasterW s.rasterN s.rasterM
        ∧ t.raster.outDim.toNat = outDim s.rasterW s.rasterN s.rasterM ∧ t.status.pixv = false
        ∧ t.status.segv = s.status.segv ∧ t.status.symv = true
        ∧ t.segCount = s.segCount ∧ t.build = s.build ∧ t.mem = s.mem)

/-- RS_ENCODE with legal K and E completes: RSB[K..K+E-1] is rs_ec of RSB[0..K-1], every other byte, every validity bit and
every result is unchanged (42_reed_solomon R188). -/
def Obligations.RsEncodeCompletes : Prop :=
  ∀ s : State, s.rsK ≠ 0 → s.rsE ≠ 0 → s.rsE ≤ s.cfg.rsMaxEc → s.rsK + s.rsE ≤ 255 →
    ∃ t, exec .rsEncode s = .next t ∧ CompletedWith s t .none ∧ EngineFrame s t
      ∧ t.readBytes (0x1000 + s.rsK) s.rsE = rsEc (s.readBytes 0x1000 s.rsK) s.rsE
      ∧ t.Listed (0x1000 + s.rsK) s.rsE
      ∧ SameBytesOutside s t (0x1000 + s.rsK) s.rsE
      ∧ t.status.segv = s.status.segv ∧ t.status.symv = s.status.symv ∧ t.status.pixv = s.status.pixv
      ∧ t.segCount = s.segCount ∧ t.build = s.build ∧ t.raster = s.raster

/-- RS_ENCODE rejects K = 0, E = 0, E > RS_MAX_EC and K + E > 255 with InvalidInput and leaves RS_BUF, and everything else,
unchanged (42_reed_solomon R189). -/
def Obligations.RsEncodeRejects : Prop :=
  ∀ s : State, s.rsK = 0 ∨ s.rsE = 0 ∨ s.cfg.rsMaxEc < s.rsE ∨ 255 < s.rsK + s.rsE →
    ∃ t, exec .rsEncode s = .next t ∧ CompletedWith s t .invalidInput ∧ EngineFrame s t
      ∧ t.status.segv = s.status.segv ∧ t.status.symv = s.status.symv ∧ t.status.pixv = s.status.pixv
      ∧ t.segCount = s.segCount ∧ t.build = s.build ∧ t.raster = s.raster ∧ t.mem = s.mem

/-- GENERATE on a text that is legal, fits a version and makes an image that fits completes with the segmentation, the symbol
and the image of that text, and changes no other byte (46_control R291). -/
def Obligations.GenerateCompletes : Prop :=
  ∀ (s : State) v, s.cfg.wellFormed = true → 1 ≤ s.textLen → s.textLen ≤ s.cfg.textMax →
    selectVersion ((segmentText (s.textBytes 0 s.textLen)).map s.segData) s.level = some v →
    s.rasterW ≠ 0 →
    outDim s.rasterW (sideOf v) s.rasterM * outDim s.rasterW (sideOf v) s.rasterM ≤ s.cfg.pixMax →
    ∃ m t, place (finalCodewords (dataCodewords ((segmentText (s.textBytes 0 s.textLen)).map s.segData) v s.level)
          v s.level) v (layout v) = some m
      ∧ exec .generate s = .next t ∧ CompletedWith s t .none ∧ EngineFrame s t
      ∧ SegmentResults s t
      ∧ BuildResults ((segmentText (s.textBytes 0 s.textLen)).map s.segData) s.level v m t
      ∧ RasterResults (sideOf v) (candidate m s.level (committedMask m s.level)).darkAt s t
      ∧ ∀ a, ¬(0x20000 ≤ a ∧ a < 0x20000 + 16 * t.segCount.toNat) → ¬StoredByBuild v s.level a →
          ¬(0x1000000 ≤ a ∧ a < 0x1000000 + 4 * (t.raster.outDim.toNat * t.raster.outDim.toNat)) →
          t.byteAt a = s.byteAt a

/-- GENERATE is SEGMENT, then BUILD, then RASTER, stopping at the first that fails: it leaves exactly the state the last of
these commands that ran leaves (46_control R291). -/
def Obligations.GenerateIsThreeCommands : Prop :=
  ∀ s s1 : State, exec .segment s = .next s1 →
    (s1.errcode ≠ .none → exec .generate s = .next s1)
    ∧ (s1.errcode = .none → ∀ s2, exec .build s1 = .next s2 →
        (s2.errcode ≠ .none → exec .generate s = .next s2)
        ∧ (s2.errcode = .none → exec .generate s = exec .raster s2))

/-- Two GENERATE runs from equal configuration registers and equal TEXT[0..TEXT_LEN-1], which alone is input (10_state R46), write
equal results, MATRIX_BUF byte by byte, whatever else the two states hold: the rest of TEXT_BUF, the other buffers, the old results, the flags, the
host (10_state R55). -/
def Obligations.GenerateDeterministic : Prop :=
  ∀ s1 s2 t1 t2 : State, s1.cfg.wellFormed = true → s2.cfg = s1.cfg → s2.conf = s1.conf →
    (∀ k, k < s1.textLen → s2.byteAt (0x10000 + k) = s1.byteAt (0x10000 + k)) →
    exec .generate s1 = .next t1 → exec .generate s2 = .next t2 →
    t2.errcode = t1.errcode ∧ t2.segCount = t1.segCount ∧ t2.status.segv = t1.status.segv
      ∧ (t1.status.segv = true →
          t2.readBytes 0x20000 (16 * t1.segCount.toNat) = t1.readBytes 0x20000 (16 * t1.segCount.toNat)
          ∧ t2.build = t1.build ∧ t2.status.symv = t1.status.symv ∧ t2.status.pixv = t1.status.pixv
          ∧ (t1.status.symv = true →
              t2.readBytes 0x40000 t1.build.dataCw.toNat = t1.readBytes 0x40000 t1.build.dataCw.toNat
              ∧ t2.readBytes 0x41000 t1.build.totalCw.toNat = t1.readBytes 0x41000 t1.build.totalCw.toNat
              ∧ (∀ r c, r < t1.build.side.toNat → c < t1.build.side.toNat →
                  t2.byteAt (0x50000 + 177 * r + c) = t1.byteAt (0x50000 + 177 * r + c))
              ∧ t2.raster = t1.raster)
          ∧ (t1.status.pixv = true →
              t2.readBytes 0x1000000 (4 * (t1.raster.outDim.toNat * t1.raster.outDim.toNat))
                = t1.readBytes 0x1000000 (4 * (t1.raster.outDim.toNat * t1.raster.outDim.toNat))))

/-- A failed command issued again with nothing written in between fails again with the same code (60_exceptions R309). -/
def Obligations.FailedCommandFailsAgain : Prop :=
  ∀ i (s t : State), s.cfg.wellFormed = true → exec i s = .next t → t.errcode ≠ .none →
    ∃ u, exec i (t.accept (encode i)) = .next u ∧ u.errcode = t.errcode

/-- The engine writes only result registers, status bits and the result buffers: no command changes CMD, LATCHED_OP, a
configuration register or a byte of TEXT_BUF, and only RS_ENCODE changes RS_BUF (10_state R20, R40). -/
def Obligations.EngineWritesNoInput : Prop :=
  ∀ i (s t : State), s.cfg.wellFormed = true → exec i s = .next t →
    t.cfg = s.cfg ∧ t.conf = s.conf ∧ t.cmd = s.cmd ∧ t.latchedOp = s.latchedOp ∧ t.resetLine = s.resetLine
      ∧ t.hostQueue = s.hostQueue ∧ t.hostReads = s.hostReads
      ∧ (∀ k, k < s.cfg.textMax → t.byteAt (0x10000 + k) = s.byteAt (0x10000 + k))
      ∧ (i ≠ .rsEncode → ∀ k, k < 256 → t.byteAt (0x1000 + k) = s.byteAt (0x1000 + k))

/-! ### What the commands compute -/

/-- The segments of a nonempty text are in text order and tile it exactly, with no gap and no overlap, each with at least one
byte; a text of n bytes has at most n (40_segmenter R122, R124). -/
def Obligations.SegmentationTiles : Prop :=
  ∀ t : List Byte, t ≠ [] →
    segmentText t ≠ [] ∧ (segmentText t).length ≤ t.length
      ∧ ((segmentText t).map Segment.count).sum = t.length
      ∧ ∀ i x, (segmentText t)[i]? = some x →
          1 ≤ x.count ∧ x.start = (((segmentText t).take i).map Segment.count).sum

/-- Every byte of a NUM segment is class N, every byte of an ALNUM segment is class N or A and not all are N, every byte of a
BYTE segment is class B; and of two adjacent segments exactly one is BYTE (40_segmenter R124, R125). -/
def Obligations.SegmentationAlphabets : Prop :=
  ∀ t : List Byte,
    (∀ x ∈ segmentText t,
      (x.mode = .num → ∀ b ∈ (t.drop x.start).take x.count, classOf b = .n)
      ∧ (x.mode = .alnum → (∀ b ∈ (t.drop x.start).take x.count, classOf b = .n ∨ classOf b = .a)
          ∧ ∃ b ∈ (t.drop x.start).take x.count, classOf b = .a)
      ∧ (x.mode = .byte → ∀ b ∈ (t.drop x.start).take x.count, classOf b = .b))
    ∧ ∀ i x y, (segmentText t)[i]? = some x → (segmentText t)[i + 1]? = some y →
        (x.mode = .byte ↔ y.mode ≠ .byte)

/-- data_bits(mode, n) equals the number of bits a segment of n bytes packs to, and a BYTE segment packs each byte as 8 bits
(40_segmenter R129). -/
def Obligations.PackedLength : Prop :=
  (∀ m (bytes : List Byte), (pack m bytes).length = dataBits m bytes.length)
    ∧ (∀ bytes : List Byte, pack .byte bytes = bytes.flatMap fun b => bitsMsb 8 b.toNat)
    ∧ ∀ n, dataBits .num n = 10 * (n / 3) + [0, 4, 7].getD (n % 3) 0
        ∧ dataBits .alnum n = 11 * (n / 2) + 6 * (n % 2) ∧ dataBits .byte n = 8 * n

/-- select_version returns v exactly where v is the smallest of 1..40 whose count indicators hold every count and whose data
capacity holds required_bytes(v); it returns none exactly where no version does (41_bitstream R157). -/
def Obligations.SelectVersionSmallest : Prop :=
  ∀ (ss : List SegData) (lv : Level),
    let fits := fun v => (∀ x ∈ ss, x.count < 2 ^ ccBits x.mode v) ∧ requiredBytes ss v ≤ dataCw v lv
    (∀ v, selectVersion ss lv = some v ↔ 1 ≤ v ∧ v ≤ 40 ∧ fits v ∧ ∀ u, 1 ≤ u → u < v → ¬fits u)
      ∧ (selectVersion ss lv = none ↔ ∀ v, 1 ≤ v → v ≤ 40 → ¬fits v)

/-- Where the data fits, the terminated bitstream has required_bits bits, its padding to bytes 8*required_bytes bits, and D
has exactly DATA codewords: those bits first, then 0xEC and 0x11 alternating (41_bitstream R160 to R163). -/
def Obligations.DataCodewordsFill : Prop :=
  ∀ (ss : List SegData) (lv : Level) (v : Nat), requiredBytes ss v ≤ dataCw v lv →
    (bitstream ss v).length + 4 = requiredBits ss v
      ∧ ((dataCodewords ss v lv).take (requiredBytes ss v)).flatMap bitsOfByte
          = bitstream ss v ++ List.replicate (8 * requiredBytes ss v - (bitstream ss v).length) false
      ∧ (dataCodewords ss v lv).length = dataCw v lv
      ∧ ∀ j, requiredBytes ss v + j < dataCw v lv →
          (dataCodewords ss v lv)[requiredBytes ss v + j]? = some (if j % 2 = 0 then 0xEC else 0x11)

/-- The columns of Table 41-1 agree with the closed forms and with the block split: TOTAL(v) = floor(avail(v) / 8), and the short
and long blocks hold DATA data codewords and TOTAL codewords (41_bitstream R155, R156, 42_reed_solomon R184, R185). -/
def Obligations.CapacityTables : Prop :=
  ∀ v lv, 1 ≤ v → v ≤ 40 →
    totalCw v = rawModules v / 8
      ∧ dataCw v lv + ecPerBlock v lv * numBlocks v lv = totalCw v
      ∧ numShort v lv + numLong v lv = numBlocks v lv ∧ 1 ≤ numShort v lv ∧ 1 ≤ shortData v lv
      ∧ numShort v lv * shortData v lv + numLong v lv * (shortData v lv + 1) = dataCw v lv
      ∧ ecPerBlock v lv ≤ 30

/-- The final codeword sequence of DATA data codewords has TOTAL codewords; with one block it is D ++ rs_ec(D, EC)
(42_reed_solomon R187). -/
def Obligations.FinalCodewordsLength : Prop :=
  ∀ (d : List Byte) v lv, 1 ≤ v → v ≤ 40 → d.length = dataCw v lv →
    (finalCodewords d v lv).length = totalCw v
      ∧ (numBlocks v lv = 1 → finalCodewords d v lv = d ++ rsEc d (ecPerBlock v lv))

/-- Multiplication by the log and antilog tables is polynomial multiplication reduced modulo 0x11D (42_reed_solomon R180, R181). -/
def Obligations.TablesMultiply : Prop :=
  (∀ a b, gfMul a b = gfMulPoly a b)
    ∧ (∀ a : Byte, a ≠ 0 → gfLog a < 255 ∧ gfExp (gfLog a) = a)
    ∧ ∀ i, i < 255 → gfLog (gfExp i) = i

/-- Every codeword sequence d ++ rs_ec(d, E), as a polynomial with its first codeword as the highest coefficient, is zero at
each of the E roots alpha^0 .. alpha^(E-1) of the generator (42_reed_solomon R182, R183). -/
def Obligations.CodewordVanishesAtRoots : Prop :=
  ∀ (d : List Byte) (e i : Nat), e ≤ 255 → i < e →
    (rsEc d e).length = e
      ∧ (d ++ rsEc d e).foldl (fun acc c => gfMul acc (gfExp i) ^^^ c) 0 = 0

/-- The zigzag visits every available module exactly once, and nothing else (43_matrix_layout R224). -/
def Obligations.PlacementVisitsOnce : Prop :=
  ∀ v, 1 ≤ v → v ≤ 40 →
    (placementOrder v).Nodup
      ∧ ∀ r c, (r, c) ∈ placementOrder v ↔ r < sideOf v ∧ c < sideOf v ∧ isFunction v r c = false

/-- The number of available modules is RAW(v), and TOTAL(v) = floor(RAW(v) / 8) (43_matrix_layout R223). -/
def Obligations.AvailableModules : Prop :=
  ∀ v, 1 ≤ v → v ≤ 40 →
    (placementOrder v).length
        = (16 * v + 128) * v + 64 - (if 2 ≤ v then 25 * (v / 7 + 2) ^ 2 - 10 * (v / 7 + 2) - 55 else 0)
          - (if 7 ≤ v then 36 else 0)
      ∧ totalCw v = (placementOrder v).length / 8

/-- Placement puts bit 7 - (i mod 8) of C[floor(i/8)] on the i-th module of the order, and light on the remainder modules; it
changes no function module and no func field (43_matrix_layout R225, R226). -/
def Obligations.PlacedBits : Prop :=
  ∀ (cw : List Byte) (v : Nat) (m : Grid), 1 ≤ v → v ≤ 40 → place cw v (layout v) = some m →
    cw.length = totalCw v ∧ m.side = sideOf v
      ∧ (∀ i r c, (placementOrder v)[i]? = some (r, c) →
          m.darkAt r c = if i < 8 * cw.length then (cw.getD (i / 8) 0).getLsbD (7 - i % 8) else false)
      ∧ ∀ r c, r < sideOf v → c < sideOf v →
          m.funcAt r c = isFunction v r c
            ∧ (isFunction v r c = true → m.darkAt r c = (layout v).darkAt r c)

/-- Mask k flips exactly the modules with func = 0 for which m_k is true; function modules never change (44_mask_penalty R241). -/
def Obligations.MaskFlipsDataModules : Prop :=
  ∀ (g : Grid) (k r c : Nat), g.dark.size = g.side * g.side → g.func.size = g.side * g.side →
    r < g.side → c < g.side →
    (g.applyMask k).darkAt r c = (if g.funcAt r c then g.darkAt r c else (g.darkAt r c ^^ maskBit k r c))
      ∧ (g.applyMask k).funcAt r c = g.funcAt r c

/-- Candidate k of a placed matrix has bit i of format_word(level, k) at both positions of F[i], its version bits and every other
module as masking left them, and its func fields unchanged, 1 at the format positions (44_mask_penalty R242, R243). -/
def Obligations.CandidateFormatBits : Prop :=
  ∀ (cw : List Byte) (v : Nat) (m : Grid) (lv : Level) (k : Nat), 1 ≤ v → v ≤ 40 → k < 8 →
    place cw v (layout v) = some m →
    (∀ i, i < 15 →
      (candidate m lv k).darkAt (formatPos1 i).1 (formatPos1 i).2 = (formatWord lv k).testBit i
      ∧ (candidate m lv k).darkAt (formatPos2 (sideOf v) i).1 (formatPos2 (sideOf v) i).2 = (formatWord lv k).testBit i
      ∧ (candidate m lv k).funcAt (formatPos1 i).1 (formatPos1 i).2 = true
      ∧ (candidate m lv k).funcAt (formatPos2 (sideOf v) i).1 (formatPos2 (sideOf v) i).2 = true)
    ∧ ∀ r c, r < sideOf v → c < sideOf v →
        (candidate m lv k).funcAt r c = isFunction v r c
        ∧ (isFormatPos (sideOf v) r c = false →
            (candidate m lv k).darkAt r c = (m.darkAt r c ^^ (!isFunction v r c && maskBit k r c)))

/-- N2 is 3 times the number of 2 x 2 windows of one colour (44_mask_penalty R245); N4 is 10 * floor(|2d - t| * 10 / t) for the
d dark modules of t = N^2 (R247); and the score is the sum of the four parts. -/
def Obligations.PenaltyBlocksAndRatio : Prop :=
  ∀ g : Grid, g.dark.size = g.side * g.side →
    let pairs := fun n => (List.range n).flatMap fun i => (List.range n).map fun j => (i, j)
    let d := (pairs g.side).countP fun x => g.darkAt x.1 x.2
    let t := g.side * g.side
    (g.n2 = 3 * (pairs (g.side - 1)).countP fun x =>
        g.darkAt x.1 x.2 == g.darkAt x.1 (x.2 + 1) && g.darkAt x.1 x.2 == g.darkAt (x.1 + 1) x.2
          && g.darkAt x.1 x.2 == g.darkAt (x.1 + 1) (x.2 + 1))
      ∧ g.n4 = 10 * (((2 * d : Int) - t).natAbs * 10 / t)
      ∧ g.penalty = g.n1 + g.n2 + g.n3 + g.n4

/-- N1 of a line is the sum of 3 + (L - 5) over its maximal one-colour runs of L >= 5 modules, each counted at the position x where
it begins (44_mask_penalty R244); the finder-like occurrences of a line are the positions x where ln[x..x+6] = 1011101 and the
existing modules of ln[x-4..x-1] or those of ln[x+7..x+10] are all light (R246); and N1 and 40 * N3 of a matrix are summed over
its N rows and N columns. -/
def Obligations.PenaltyOfLines : Prop :=
  (∀ ln : List Bool,
    n1Line ln = ((List.range ln.length).map fun x =>
      let run := ((ln.drop x).takeWhile (· == ln.getD x false)).length
      if (x = 0 ∨ ln[x - 1]? ≠ ln[x]?) ∧ 5 ≤ run then 3 + (run - 5) else 0).sum)
  ∧ (∀ ln : List Bool,
    n3From [] ln = (List.range ln.length).countP fun x =>
      (ln.drop x).take 7 == [true, false, true, true, true, false, true]
        && (((ln.take x).drop (x - 4)).all (· == false) || ((ln.drop (x + 7)).take 4).all (· == false)))
  ∧ ∀ g : Grid, g.dark.size = g.side * g.side →
    let lines := ((List.range g.side).map fun i => (List.range g.side).map fun j => g.darkAt i j)
      ++ (List.range g.side).map fun j => (List.range g.side).map fun i => g.darkAt i j
    g.n1 = (lines.map n1Line).sum ∧ g.n3 = 40 * (lines.map (n3From [])).sum

/-- The committed mask is the smallest index at which the eight scores take their minimum (44_mask_penalty R249). -/
def Obligations.BestMaskMinimal : Prop :=
  ∀ ps : List Nat, ps.length = 8 →
    bestMask ps < 8 ∧ (∀ j, j < 8 → ps.getD (bestMask ps) 0 ≤ ps.getD j 0)
      ∧ ∀ j, j < bestMask ps → ps.getD (bestMask ps) 0 < ps.getD j 0

/-! ### Invariants -/

/-- The state after reset satisfies every invariant. -/
def Obligations.ResetMeetsInvariants : Prop :=
  State.reset.cfg.wellFormed = true ∧ ControlInv State.reset ∧ Memory.wf State.reset.mem = true
    ∧ MemoryInWindows State.reset ∧ SegmentTableInv State.reset ∧ SymbolInv State.reset ∧ ImageInv State.reset

/-- Every step keeps the control state consistent: BUSY and the phase agree, LATCHED_OP is the word in CMD, DONE and BUSY exclude
each other, ERR agrees with ERRCODE and implies DONE, and reset holds the engine idle (10_state R25 to R29, R53). -/
def Obligations.StepKeepsControl : Prop :=
  ∀ s t : State, ControlInv s → step s = .next t → ControlInv t ∧ t.cfg = s.cfg

/-- Every step keeps the memory in canonical form and every listed byte in a buffer window (10_state R40, 20_memory R61). -/
def Obligations.StepKeepsMemory : Prop :=
  ∀ s t : State, s.cfg.wellFormed = true → Memory.wf s.mem = true → MemoryInWindows s → step s = .next t →
    Memory.wf t.mem = true ∧ MemoryInWindows t

/-- Every step keeps SEGV honest: where it is 1, SEG_COUNT and all four words of each table entry, its zero bits included, hold
the segmentation of the current text (10_state R30, R48). -/
def Obligations.StepKeepsSegmentTable : Prop :=
  ∀ s t : State, s.cfg.wellFormed = true → SegmentTableInv s → step s = .next t → SegmentTableInv t

/-- Every step keeps SYMV honest: where it is 1, the BUILD results are those of one symbol (10_state R31). -/
def Obligations.StepKeepsSymbol : Prop :=
  ∀ s t : State, s.cfg.wellFormed = true → SymbolInv s → step s = .next t → SymbolInv t

/-- Every step keeps PIXV honest: where it is 1, the RASTER results are an image of the current matrix (10_state R32). -/
def Obligations.StepKeepsImage : Prop :=
  ∀ s t : State, s.cfg.wellFormed = true → ImageInv s → step s = .next t → ImageInv t

/-- InternalEncodingError is unreachable: no command reports it from a state whose segment table is honest (60_exceptions
R303, 43_matrix_layout R227). That the model keeps the check, and reports a table without a mode by the same code, is its
choice (log 8). -/
def Obligations.NoInternalEncodingError : Prop :=
  ∀ i (s t : State), s.cfg.wellFormed = true → SegmentTableInv s → exec i s = .next t →
    t.errcode ≠ .internalEncodingError
end

