-- ==== Sys2Proof/Laws/State.lean ====
section
/-! SUPPORT. One lemma per field of State for each named update, so that no proof unfolds a record update. -/

namespace Sys2Proof.Machine

variable (s : State)

@[simp] theorem State.accept_cfg (w : Word) : (s.accept w).cfg = s.cfg := rfl
@[simp] theorem State.accept_phase (w : Word) : (s.accept w).phase = .running := rfl
@[simp] theorem State.accept_latchedOp (w : Word) : (s.accept w).latchedOp = w := rfl
@[simp] theorem State.accept_cmd (w : Word) : (s.accept w).cmd = w := rfl
@[simp] theorem State.accept_status (w : Word) : (s.accept w).status = s.status.accepted := rfl
@[simp] theorem State.accept_errcode (w : Word) : (s.accept w).errcode = .none := rfl
@[simp] theorem State.accept_conf (w : Word) : (s.accept w).conf = s.conf := rfl
@[simp] theorem State.accept_segCount (w : Word) : (s.accept w).segCount = s.segCount := rfl
@[simp] theorem State.accept_build (w : Word) : (s.accept w).build = s.build := rfl
@[simp] theorem State.accept_raster (w : Word) : (s.accept w).raster = s.raster := rfl
@[simp] theorem State.accept_mem (w : Word) : (s.accept w).mem = s.mem := rfl
@[simp] theorem State.accept_resetLine (w : Word) : (s.accept w).resetLine = s.resetLine := rfl
@[simp] theorem State.accept_hostQueue (w : Word) : (s.accept w).hostQueue = s.hostQueue := rfl
@[simp] theorem State.accept_hostReads (w : Word) : (s.accept w).hostReads = s.hostReads := rfl
@[simp] theorem State.accept_delayLeft (w : Word) : (s.accept w).delayLeft = Config.completionDelay s.draws := rfl
@[simp] theorem State.accept_draws (w : Word) : (s.accept w).draws = s.draws + 1 := rfl
@[simp] theorem State.accept_epoch (w : Word) : (s.accept w).epoch = s.epoch := rfl

@[simp] theorem State.complete_cfg (e : ErrCode) : (s.complete e).cfg = s.cfg := rfl
@[simp] theorem State.complete_phase (e : ErrCode) : (s.complete e).phase = .idle := rfl
@[simp] theorem State.complete_latchedOp (e : ErrCode) : (s.complete e).latchedOp = s.latchedOp := rfl
@[simp] theorem State.complete_cmd (e : ErrCode) : (s.complete e).cmd = s.cmd := rfl
@[simp] theorem State.complete_status (e : ErrCode) : (s.complete e).status = s.status.completed e := rfl
@[simp] theorem State.complete_errcode (e : ErrCode) : (s.complete e).errcode = e := rfl
@[simp] theorem State.complete_conf (e : ErrCode) : (s.complete e).conf = s.conf := rfl
@[simp] theorem State.complete_segCount (e : ErrCode) : (s.complete e).segCount = s.segCount := rfl
@[simp] theorem State.complete_build (e : ErrCode) : (s.complete e).build = s.build := rfl
@[simp] theorem State.complete_raster (e : ErrCode) : (s.complete e).raster = s.raster := rfl
@[simp] theorem State.complete_mem (e : ErrCode) : (s.complete e).mem = s.mem := rfl
@[simp] theorem State.complete_resetLine (e : ErrCode) : (s.complete e).resetLine = s.resetLine := rfl
@[simp] theorem State.complete_hostQueue (e : ErrCode) : (s.complete e).hostQueue = s.hostQueue := rfl
@[simp] theorem State.complete_hostReads (e : ErrCode) : (s.complete e).hostReads = s.hostReads := rfl
@[simp] theorem State.complete_delayLeft (e : ErrCode) : (s.complete e).delayLeft = s.delayLeft := rfl
@[simp] theorem State.complete_draws (e : ErrCode) : (s.complete e).draws = s.draws := rfl
@[simp] theorem State.complete_epoch (e : ErrCode) : (s.complete e).epoch = s.epoch := rfl

@[simp] theorem State.writeBytes_cfg (off : Nat) (bs : List Byte) : (s.writeBytes off bs).cfg = s.cfg := rfl
@[simp] theorem State.writeBytes_phase (off : Nat) (bs : List Byte) : (s.writeBytes off bs).phase = s.phase := rfl
@[simp] theorem State.writeBytes_latchedOp (off : Nat) (bs : List Byte) : (s.writeBytes off bs).latchedOp = s.latchedOp := rfl
@[simp] theorem State.writeBytes_cmd (off : Nat) (bs : List Byte) : (s.writeBytes off bs).cmd = s.cmd := rfl
@[simp] theorem State.writeBytes_status (off : Nat) (bs : List Byte) : (s.writeBytes off bs).status = s.status := rfl
@[simp] theorem State.writeBytes_errcode (off : Nat) (bs : List Byte) : (s.writeBytes off bs).errcode = s.errcode := rfl
@[simp] theorem State.writeBytes_conf (off : Nat) (bs : List Byte) : (s.writeBytes off bs).conf = s.conf := rfl
@[simp] theorem State.writeBytes_segCount (off : Nat) (bs : List Byte) : (s.writeBytes off bs).segCount = s.segCount := rfl
@[simp] theorem State.writeBytes_build (off : Nat) (bs : List Byte) : (s.writeBytes off bs).build = s.build := rfl
@[simp] theorem State.writeBytes_raster (off : Nat) (bs : List Byte) : (s.writeBytes off bs).raster = s.raster := rfl
@[simp] theorem State.writeBytes_mem (off : Nat) (bs : List Byte) : (s.writeBytes off bs).mem = Memory.write s.mem off bs := rfl
@[simp] theorem State.writeBytes_resetLine (off : Nat) (bs : List Byte) : (s.writeBytes off bs).resetLine = s.resetLine := rfl
@[simp] theorem State.writeBytes_hostQueue (off : Nat) (bs : List Byte) : (s.writeBytes off bs).hostQueue = s.hostQueue := rfl
@[simp] theorem State.writeBytes_hostReads (off : Nat) (bs : List Byte) : (s.writeBytes off bs).hostReads = s.hostReads := rfl
@[simp] theorem State.writeBytes_delayLeft (off : Nat) (bs : List Byte) : (s.writeBytes off bs).delayLeft = s.delayLeft := rfl
@[simp] theorem State.writeBytes_draws (off : Nat) (bs : List Byte) : (s.writeBytes off bs).draws = s.draws := rfl
@[simp] theorem State.writeBytes_epoch (off : Nat) (bs : List Byte) : (s.writeBytes off bs).epoch = s.epoch := rfl

@[simp] theorem State.deliver_cfg (v : Word) : (s.deliver v).cfg = s.cfg := rfl
@[simp] theorem State.deliver_phase (v : Word) : (s.deliver v).phase = s.phase := rfl
@[simp] theorem State.deliver_latchedOp (v : Word) : (s.deliver v).latchedOp = s.latchedOp := rfl
@[simp] theorem State.deliver_cmd (v : Word) : (s.deliver v).cmd = s.cmd := rfl
@[simp] theorem State.deliver_status (v : Word) : (s.deliver v).status = s.status := rfl
@[simp] theorem State.deliver_errcode (v : Word) : (s.deliver v).errcode = s.errcode := rfl
@[simp] theorem State.deliver_conf (v : Word) : (s.deliver v).conf = s.conf := rfl
@[simp] theorem State.deliver_segCount (v : Word) : (s.deliver v).segCount = s.segCount := rfl
@[simp] theorem State.deliver_build (v : Word) : (s.deliver v).build = s.build := rfl
@[simp] theorem State.deliver_raster (v : Word) : (s.deliver v).raster = s.raster := rfl
@[simp] theorem State.deliver_mem (v : Word) : (s.deliver v).mem = s.mem := rfl
@[simp] theorem State.deliver_resetLine (v : Word) : (s.deliver v).resetLine = s.resetLine := rfl
@[simp] theorem State.deliver_hostQueue (v : Word) : (s.deliver v).hostQueue = s.hostQueue := rfl
@[simp] theorem State.deliver_hostReads (v : Word) : (s.deliver v).hostReads = v :: s.hostReads := rfl
@[simp] theorem State.deliver_delayLeft (v : Word) : (s.deliver v).delayLeft = s.delayLeft := rfl
@[simp] theorem State.deliver_draws (v : Word) : (s.deliver v).draws = s.draws + 1 := rfl
@[simp] theorem State.deliver_epoch (v : Word) : (s.deliver v).epoch = s.epoch := rfl

@[simp] theorem State.segmentStart_cfg : s.segmentStart.cfg = s.cfg := rfl
@[simp] theorem State.segmentStart_phase : s.segmentStart.phase = s.phase := rfl
@[simp] theorem State.segmentStart_latchedOp : s.segmentStart.latchedOp = s.latchedOp := rfl
@[simp] theorem State.segmentStart_cmd : s.segmentStart.cmd = s.cmd := rfl
@[simp] theorem State.segmentStart_status : s.segmentStart.status = { s.status with segv := false } := rfl
@[simp] theorem State.segmentStart_errcode : s.segmentStart.errcode = s.errcode := rfl
@[simp] theorem State.segmentStart_conf : s.segmentStart.conf = s.conf := rfl
@[simp] theorem State.segmentStart_segCount : s.segmentStart.segCount = 0 := rfl
@[simp] theorem State.segmentStart_build : s.segmentStart.build = s.build := rfl
@[simp] theorem State.segmentStart_raster : s.segmentStart.raster = s.raster := rfl
@[simp] theorem State.segmentStart_mem : s.segmentStart.mem = s.mem := rfl
@[simp] theorem State.segmentStart_resetLine : s.segmentStart.resetLine = s.resetLine := rfl
@[simp] theorem State.segmentStart_hostQueue : s.segmentStart.hostQueue = s.hostQueue := rfl
@[simp] theorem State.segmentStart_hostReads : s.segmentStart.hostReads = s.hostReads := rfl
@[simp] theorem State.segmentStart_delayLeft : s.segmentStart.delayLeft = s.delayLeft := rfl
@[simp] theorem State.segmentStart_draws : s.segmentStart.draws = s.draws := rfl
@[simp] theorem State.segmentStart_epoch : s.segmentStart.epoch = s.epoch := rfl

@[simp] theorem State.writeSegments_cfg (x : List Segment) : (s.writeSegments x).cfg = s.cfg := rfl
@[simp] theorem State.writeSegments_phase (x : List Segment) : (s.writeSegments x).phase = s.phase := rfl
@[simp] theorem State.writeSegments_latchedOp (x : List Segment) : (s.writeSegments x).latchedOp = s.latchedOp := rfl
@[simp] theorem State.writeSegments_cmd (x : List Segment) : (s.writeSegments x).cmd = s.cmd := rfl
@[simp] theorem State.writeSegments_status (x : List Segment) : (s.writeSegments x).status = { s.status with segv := true } := rfl
@[simp] theorem State.writeSegments_errcode (x : List Segment) : (s.writeSegments x).errcode = s.errcode := rfl
@[simp] theorem State.writeSegments_conf (x : List Segment) : (s.writeSegments x).conf = s.conf := rfl
@[simp] theorem State.writeSegments_segCount (x : List Segment) : (s.writeSegments x).segCount = BitVec.ofNat 16 x.length := rfl
@[simp] theorem State.writeSegments_build (x : List Segment) : (s.writeSegments x).build = s.build := rfl
@[simp] theorem State.writeSegments_raster (x : List Segment) : (s.writeSegments x).raster = s.raster := rfl
@[simp] theorem State.writeSegments_mem (x : List Segment) : (s.writeSegments x).mem = Memory.write s.mem (Window.base .segTable) (x.flatMap segEntryBytes) := rfl
@[simp] theorem State.writeSegments_resetLine (x : List Segment) : (s.writeSegments x).resetLine = s.resetLine := rfl
@[simp] theorem State.writeSegments_hostQueue (x : List Segment) : (s.writeSegments x).hostQueue = s.hostQueue := rfl
@[simp] theorem State.writeSegments_hostReads (x : List Segment) : (s.writeSegments x).hostReads = s.hostReads := rfl
@[simp] theorem State.writeSegments_delayLeft (x : List Segment) : (s.writeSegments x).delayLeft = s.delayLeft := rfl
@[simp] theorem State.writeSegments_draws (x : List Segment) : (s.writeSegments x).draws = s.draws := rfl
@[simp] theorem State.writeSegments_epoch (x : List Segment) : (s.writeSegments x).epoch = s.epoch := rfl

@[simp] theorem State.buildStart_cfg : s.buildStart.cfg = s.cfg := rfl
@[simp] theorem State.buildStart_phase : s.buildStart.phase = s.phase := rfl
@[simp] theorem State.buildStart_latchedOp : s.buildStart.latchedOp = s.latchedOp := rfl
@[simp] theorem State.buildStart_cmd : s.buildStart.cmd = s.cmd := rfl
@[simp] theorem State.buildStart_status : s.buildStart.status = { s.status with symv := false, pixv := false } := rfl
@[simp] theorem State.buildStart_errcode : s.buildStart.errcode = s.errcode := rfl
@[simp] theorem State.buildStart_conf : s.buildStart.conf = s.conf := rfl
@[simp] theorem State.buildStart_segCount : s.buildStart.segCount = s.segCount := rfl
@[simp] theorem State.buildStart_build : s.buildStart.build = {} := rfl
@[simp] theorem State.buildStart_raster : s.buildStart.raster = s.raster := rfl
@[simp] theorem State.buildStart_mem : s.buildStart.mem = s.mem := rfl
@[simp] theorem State.buildStart_resetLine : s.buildStart.resetLine = s.resetLine := rfl
@[simp] theorem State.buildStart_hostQueue : s.buildStart.hostQueue = s.hostQueue := rfl
@[simp] theorem State.buildStart_hostReads : s.buildStart.hostReads = s.hostReads := rfl
@[simp] theorem State.buildStart_delayLeft : s.buildStart.delayLeft = s.delayLeft := rfl
@[simp] theorem State.buildStart_draws : s.buildStart.draws = s.draws := rfl
@[simp] theorem State.buildStart_epoch : s.buildStart.epoch = s.epoch := rfl

@[simp] theorem State.reportTooLong_cfg (ss : List SegData) (lv : Level) : (s.reportTooLong ss lv).cfg = s.cfg := rfl
@[simp] theorem State.reportTooLong_phase (ss : List SegData) (lv : Level) : (s.reportTooLong ss lv).phase = s.phase := rfl
@[simp] theorem State.reportTooLong_latchedOp (ss : List SegData) (lv : Level) : (s.reportTooLong ss lv).latchedOp = s.latchedOp := rfl
@[simp] theorem State.reportTooLong_cmd (ss : List SegData) (lv : Level) : (s.reportTooLong ss lv).cmd = s.cmd := rfl
@[simp] theorem State.reportTooLong_status (ss : List SegData) (lv : Level) : (s.reportTooLong ss lv).status = s.status := rfl
@[simp] theorem State.reportTooLong_errcode (ss : List SegData) (lv : Level) : (s.reportTooLong ss lv).errcode = s.errcode := rfl
@[simp] theorem State.reportTooLong_conf (ss : List SegData) (lv : Level) : (s.reportTooLong ss lv).conf = s.conf := rfl
@[simp] theorem State.reportTooLong_segCount (ss : List SegData) (lv : Level) : (s.reportTooLong ss lv).segCount = s.segCount := rfl
@[simp] theorem State.reportTooLong_raster (ss : List SegData) (lv : Level) : (s.reportTooLong ss lv).raster = s.raster := rfl
@[simp] theorem State.reportTooLong_mem (ss : List SegData) (lv : Level) : (s.reportTooLong ss lv).mem = s.mem := rfl
@[simp] theorem State.reportTooLong_resetLine (ss : List SegData) (lv : Level) : (s.reportTooLong ss lv).resetLine = s.resetLine := rfl
@[simp] theorem State.reportTooLong_hostQueue (ss : List SegData) (lv : Level) : (s.reportTooLong ss lv).hostQueue = s.hostQueue := rfl
@[simp] theorem State.reportTooLong_hostReads (ss : List SegData) (lv : Level) : (s.reportTooLong ss lv).hostReads = s.hostReads := rfl
@[simp] theorem State.reportTooLong_delayLeft (ss : List SegData) (lv : Level) : (s.reportTooLong ss lv).delayLeft = s.delayLeft := rfl
@[simp] theorem State.reportTooLong_draws (ss : List SegData) (lv : Level) : (s.reportTooLong ss lv).draws = s.draws := rfl
@[simp] theorem State.reportTooLong_epoch (ss : List SegData) (lv : Level) : (s.reportTooLong ss lv).epoch = s.epoch := rfl

@[simp] theorem State.anyBuild_cfg : s.anyBuild.cfg = s.cfg := rfl
@[simp] theorem State.anyBuild_phase : s.anyBuild.phase = s.phase := rfl
@[simp] theorem State.anyBuild_latchedOp : s.anyBuild.latchedOp = s.latchedOp := rfl
@[simp] theorem State.anyBuild_cmd : s.anyBuild.cmd = s.cmd := rfl
@[simp] theorem State.anyBuild_status : s.anyBuild.status = s.status := rfl
@[simp] theorem State.anyBuild_errcode : s.anyBuild.errcode = s.errcode := rfl
@[simp] theorem State.anyBuild_conf : s.anyBuild.conf = s.conf := rfl
@[simp] theorem State.anyBuild_segCount : s.anyBuild.segCount = s.segCount := rfl
@[simp] theorem State.anyBuild_raster : s.anyBuild.raster = s.raster := rfl
@[simp] theorem State.anyBuild_mem : s.anyBuild.mem = s.mem := rfl
@[simp] theorem State.anyBuild_resetLine : s.anyBuild.resetLine = s.resetLine := rfl
@[simp] theorem State.anyBuild_hostQueue : s.anyBuild.hostQueue = s.hostQueue := rfl
@[simp] theorem State.anyBuild_hostReads : s.anyBuild.hostReads = s.hostReads := rfl
@[simp] theorem State.anyBuild_delayLeft : s.anyBuild.delayLeft = s.delayLeft := rfl
@[simp] theorem State.anyBuild_draws : s.anyBuild.draws = s.draws + 1 := rfl
@[simp] theorem State.anyBuild_epoch : s.anyBuild.epoch = s.epoch := rfl

@[simp] theorem State.rasterStart_cfg : s.rasterStart.cfg = s.cfg := rfl
@[simp] theorem State.rasterStart_phase : s.rasterStart.phase = s.phase := rfl
@[simp] theorem State.rasterStart_latchedOp : s.rasterStart.latchedOp = s.latchedOp := rfl
@[simp] theorem State.rasterStart_cmd : s.rasterStart.cmd = s.cmd := rfl
@[simp] theorem State.rasterStart_status : s.rasterStart.status = { s.status with pixv := false } := rfl
@[simp] theorem State.rasterStart_errcode : s.rasterStart.errcode = s.errcode := rfl
@[simp] theorem State.rasterStart_conf : s.rasterStart.conf = s.conf := rfl
@[simp] theorem State.rasterStart_segCount : s.rasterStart.segCount = s.segCount := rfl
@[simp] theorem State.rasterStart_build : s.rasterStart.build = s.build := rfl
@[simp] theorem State.rasterStart_raster : s.rasterStart.raster = {} := rfl
@[simp] theorem State.rasterStart_mem : s.rasterStart.mem = s.mem := rfl
@[simp] theorem State.rasterStart_resetLine : s.rasterStart.resetLine = s.resetLine := rfl
@[simp] theorem State.rasterStart_hostQueue : s.rasterStart.hostQueue = s.hostQueue := rfl
@[simp] theorem State.rasterStart_hostReads : s.rasterStart.hostReads = s.hostReads := rfl
@[simp] theorem State.rasterStart_delayLeft : s.rasterStart.delayLeft = s.delayLeft := rfl
@[simp] theorem State.rasterStart_draws : s.rasterStart.draws = s.draws := rfl
@[simp] theorem State.rasterStart_epoch : s.rasterStart.epoch = s.epoch := rfl

@[simp] theorem State.writeRasterSize_cfg : s.writeRasterSize.cfg = s.cfg := rfl
@[simp] theorem State.writeRasterSize_phase : s.writeRasterSize.phase = s.phase := rfl
@[simp] theorem State.writeRasterSize_latchedOp : s.writeRasterSize.latchedOp = s.latchedOp := rfl
@[simp] theorem State.writeRasterSize_cmd : s.writeRasterSize.cmd = s.cmd := rfl
@[simp] theorem State.writeRasterSize_status : s.writeRasterSize.status = s.status := rfl
@[simp] theorem State.writeRasterSize_errcode : s.writeRasterSize.errcode = s.errcode := rfl
@[simp] theorem State.writeRasterSize_conf : s.writeRasterSize.conf = s.conf := rfl
@[simp] theorem State.writeRasterSize_segCount : s.writeRasterSize.segCount = s.segCount := rfl
@[simp] theorem State.writeRasterSize_build : s.writeRasterSize.build = s.build := rfl
@[simp] theorem State.writeRasterSize_mem : s.writeRasterSize.mem = s.mem := rfl
@[simp] theorem State.writeRasterSize_resetLine : s.writeRasterSize.resetLine = s.resetLine := rfl
@[simp] theorem State.writeRasterSize_hostQueue : s.writeRasterSize.hostQueue = s.hostQueue := rfl
@[simp] theorem State.writeRasterSize_hostReads : s.writeRasterSize.hostReads = s.hostReads := rfl
@[simp] theorem State.writeRasterSize_delayLeft : s.writeRasterSize.delayLeft = s.delayLeft := rfl
@[simp] theorem State.writeRasterSize_draws : s.writeRasterSize.draws = s.draws := rfl
@[simp] theorem State.writeRasterSize_epoch : s.writeRasterSize.epoch = s.epoch := rfl

/-- Writing the matrix changes memory alone. -/
theorem State.writeMatrix_eq (g : Grid) : s.writeMatrix g = { s with mem := (s.writeMatrix g).mem } := by
  unfold State.writeMatrix
  suffices h : ∀ (rows : List Nat) (t : State), rows.foldl (fun s r =>
      s.writeBytes (Window.base .matrixBuf + 177 * r) ((List.range g.side).map (g.moduleByte r))) t
      = { t with mem := (rows.foldl (fun s r =>
      s.writeBytes (Window.base .matrixBuf + 177 * r) ((List.range g.side).map (g.moduleByte r))) t).mem } from h _ s
  intro rows
  induction rows with
  | nil => exact fun _ => rfl
  | cons r rest ih => intro t; rw [List.foldl_cons, ih]; rfl

@[simp] theorem State.writeMatrix_cfg (g : Grid) : (s.writeMatrix g).cfg = s.cfg := by rw [State.writeMatrix_eq]
@[simp] theorem State.writeMatrix_phase (g : Grid) : (s.writeMatrix g).phase = s.phase := by rw [State.writeMatrix_eq]
@[simp] theorem State.writeMatrix_latchedOp (g : Grid) : (s.writeMatrix g).latchedOp = s.latchedOp := by rw [State.writeMatrix_eq]
@[simp] theorem State.writeMatrix_cmd (g : Grid) : (s.writeMatrix g).cmd = s.cmd := by rw [State.writeMatrix_eq]
@[simp] theorem State.writeMatrix_status (g : Grid) : (s.writeMatrix g).status = s.status := by rw [State.writeMatrix_eq]
@[simp] theorem State.writeMatrix_errcode (g : Grid) : (s.writeMatrix g).errcode = s.errcode := by rw [State.writeMatrix_eq]
@[simp] theorem State.writeMatrix_conf (g : Grid) : (s.writeMatrix g).conf = s.conf := by rw [State.writeMatrix_eq]
@[simp] theorem State.writeMatrix_segCount (g : Grid) : (s.writeMatrix g).segCount = s.segCount := by rw [State.writeMatrix_eq]
@[simp] theorem State.writeMatrix_build (g : Grid) : (s.writeMatrix g).build = s.build := by rw [State.writeMatrix_eq]
@[simp] theorem State.writeMatrix_raster (g : Grid) : (s.writeMatrix g).raster = s.raster := by rw [State.writeMatrix_eq]
@[simp] theorem State.writeMatrix_resetLine (g : Grid) : (s.writeMatrix g).resetLine = s.resetLine := by rw [State.writeMatrix_eq]
@[simp] theorem State.writeMatrix_hostQueue (g : Grid) : (s.writeMatrix g).hostQueue = s.hostQueue := by rw [State.writeMatrix_eq]
@[simp] theorem State.writeMatrix_hostReads (g : Grid) : (s.writeMatrix g).hostReads = s.hostReads := by rw [State.writeMatrix_eq]
@[simp] theorem State.writeMatrix_delayLeft (g : Grid) : (s.writeMatrix g).delayLeft = s.delayLeft := by rw [State.writeMatrix_eq]
@[simp] theorem State.writeMatrix_draws (g : Grid) : (s.writeMatrix g).draws = s.draws := by rw [State.writeMatrix_eq]
@[simp] theorem State.writeMatrix_epoch (g : Grid) : (s.writeMatrix g).epoch = s.epoch := by rw [State.writeMatrix_eq]

@[simp] theorem State.writeSymbol_cfg (y : Symbol) : (s.writeSymbol y).cfg = s.cfg := by simp [State.writeSymbol]
@[simp] theorem State.writeSymbol_phase (y : Symbol) : (s.writeSymbol y).phase = s.phase := by simp [State.writeSymbol]
@[simp] theorem State.writeSymbol_latchedOp (y : Symbol) : (s.writeSymbol y).latchedOp = s.latchedOp := by simp [State.writeSymbol]
@[simp] theorem State.writeSymbol_cmd (y : Symbol) : (s.writeSymbol y).cmd = s.cmd := by simp [State.writeSymbol]
@[simp] theorem State.writeSymbol_status (y : Symbol) : (s.writeSymbol y).status = { s.status with symv := true } := by simp [State.writeSymbol]
@[simp] theorem State.writeSymbol_errcode (y : Symbol) : (s.writeSymbol y).errcode = s.errcode := by simp [State.writeSymbol]
@[simp] theorem State.writeSymbol_conf (y : Symbol) : (s.writeSymbol y).conf = s.conf := by simp [State.writeSymbol]
@[simp] theorem State.writeSymbol_segCount (y : Symbol) : (s.writeSymbol y).segCount = s.segCount := by simp [State.writeSymbol]
@[simp] theorem State.writeSymbol_build (y : Symbol) : (s.writeSymbol y).build = y.regs := by simp [State.writeSymbol]
@[simp] theorem State.writeSymbol_raster (y : Symbol) : (s.writeSymbol y).raster = s.raster := by simp [State.writeSymbol]
@[simp] theorem State.writeSymbol_resetLine (y : Symbol) : (s.writeSymbol y).resetLine = s.resetLine := by simp [State.writeSymbol]
@[simp] theorem State.writeSymbol_hostQueue (y : Symbol) : (s.writeSymbol y).hostQueue = s.hostQueue := by simp [State.writeSymbol]
@[simp] theorem State.writeSymbol_hostReads (y : Symbol) : (s.writeSymbol y).hostReads = s.hostReads := by simp [State.writeSymbol]
@[simp] theorem State.writeSymbol_delayLeft (y : Symbol) : (s.writeSymbol y).delayLeft = s.delayLeft := by simp [State.writeSymbol]
@[simp] theorem State.writeSymbol_draws (y : Symbol) : (s.writeSymbol y).draws = s.draws := by simp [State.writeSymbol]
@[simp] theorem State.writeSymbol_epoch (y : Symbol) : (s.writeSymbol y).epoch = s.epoch := by simp [State.writeSymbol]

@[simp] theorem Status.accepted_busy (x : Status) : x.accepted.busy = true := rfl
@[simp] theorem Status.accepted_done (x : Status) : x.accepted.done = false := rfl
@[simp] theorem Status.accepted_err (x : Status) : x.accepted.err = false := rfl
@[simp] theorem Status.accepted_segv (x : Status) : x.accepted.segv = x.segv := rfl
@[simp] theorem Status.accepted_symv (x : Status) : x.accepted.symv = x.symv := rfl
@[simp] theorem Status.accepted_pixv (x : Status) : x.accepted.pixv = x.pixv := rfl
@[simp] theorem Status.accepted_ovr (x : Status) : x.accepted.ovr = false := rfl
@[simp] theorem Status.completed_busy (x : Status) (e : ErrCode) : (x.completed e).busy = false := rfl
@[simp] theorem Status.completed_done (x : Status) (e : ErrCode) : (x.completed e).done = true := rfl
@[simp] theorem Status.completed_err (x : Status) (e : ErrCode) : (x.completed e).err = decide (e ≠ .none) := rfl
@[simp] theorem Status.completed_segv (x : Status) (e : ErrCode) : (x.completed e).segv = x.segv := rfl
@[simp] theorem Status.completed_symv (x : Status) (e : ErrCode) : (x.completed e).symv = x.symv := rfl
@[simp] theorem Status.completed_pixv (x : Status) (e : ErrCode) : (x.completed e).pixv = x.pixv := rfl
@[simp] theorem Status.completed_ovr (x : Status) (e : ErrCode) : (x.completed e).ovr = x.ovr := rfl

end Sys2Proof.Machine
end

