-- ==== Sys2Proof/Laws/Memory.lean ====
section
/-! SUPPORT. The laws of the byte memory: what a read finds after a write, and that every write keeps the canonical form. -/

namespace Sys2Proof.Machine

theorem Memory.get?_append (m n : List Host.Cell) (a : Nat) :
    Memory.get? (m ++ n) a = (Memory.get? m a).or (Memory.get? n a) := by
  induction m with
  | nil => simp [Memory.get?]
  | cons x rest ih =>
    obtain ⟨k, b⟩ := x
    simp only [List.cons_append, Memory.get?]
    split <;> simp_all

theorem Memory.get?_filter (m : List Host.Cell) (p : Nat → Bool) (a : Nat) :
    Memory.get? (m.filter fun x => p x.1) a = if p a then Memory.get? m a else none := by
  induction m with
  | nil => simp [Memory.get?]
  | cons x rest ih =>
    obtain ⟨k, b⟩ := x
    simp only [List.filter_cons, Memory.get?]
    by_cases hk : k = a
    · subst hk
      by_cases hp : p k <;> simp_all [Memory.get?]
    · by_cases hp : p k <;> simp_all [Memory.get?]

theorem Memory.get?_cellsOf (base : Nat) (bytes : List Byte) (a : Nat) :
    Memory.get? (Memory.cellsOf base bytes) a = if base ≤ a then bytes[a - base]? else none := by
  suffices h : ∀ (bs : List Byte) (k : Nat),
      Memory.get? ((bs.zipIdx k).map fun x => (base + x.2, x.1)) a
        = if base + k ≤ a then bs[a - base - k]? else none by
    simpa [Memory.cellsOf] using h bytes 0
  intro bs
  induction bs with
  | nil => simp [Memory.get?]
  | cons b rest ih =>
    intro k
    simp only [List.zipIdx_cons, List.map_cons, Memory.get?, ih]
    by_cases h1 : base + k = a
    · subst h1; simp
    · by_cases h2 : base + k ≤ a
      · have e : a - base - k = (a - base - (k + 1)) + 1 := by omega
        rw [if_neg h1, if_pos (by omega), if_pos h2, e, List.getElem?_cons_succ]
      · rw [if_neg h1, if_neg (by omega), if_neg h2]

/-- Read after write: inside the run the byte written, outside what was there (20_memory R70). -/
theorem Memory.get?_write (m : List Host.Cell) (base : Nat) (bytes : List Byte) (a : Nat) :
    Memory.get? (Memory.write m base bytes) a
      = if base ≤ a ∧ a < base + bytes.length then bytes[a - base]? else Memory.get? m a := by
  unfold Memory.write
  rw [Memory.get?_append, Memory.get?_append, Memory.get?_cellsOf]
  have f1 := Memory.get?_filter m (fun k => decide (k < base)) a
  have f2 := Memory.get?_filter m (fun k => decide (base + bytes.length ≤ k)) a
  simp only [decide_eq_true_eq] at f1 f2
  rw [f1, f2]
  by_cases h1 : a < base
  · rw [if_pos h1, if_neg (by omega), if_neg (by omega), if_neg (by omega)]; simp
  · have a1 : base ≤ a := by omega
    by_cases h2 : a < base + bytes.length
    · simp [h1, a1, h2, show ¬ base + bytes.length ≤ a by omega]
    · simp [h1, a1, h2, show base + bytes.length ≤ a by omega, show bytes.length ≤ a - base by omega]

/-- A byte inside the run written reads as that byte. -/
theorem Memory.get?_write_inside (m : List Host.Cell) (base : Nat) (bytes : List Byte) (i : Nat)
    (h : i < bytes.length) : Memory.get? (Memory.write m base bytes) (base + i) = some bytes[i] := by
  rw [Memory.get?_write, if_pos (by omega), Nat.add_sub_cancel_left, List.getElem?_eq_getElem h]

/-- A byte outside the run written reads as before. -/
theorem Memory.get?_write_outside (m : List Host.Cell) (base : Nat) (bytes : List Byte) (a : Nat)
    (h : a < base ∨ base + bytes.length ≤ a) : Memory.get? (Memory.write m base bytes) a = Memory.get? m a := by
  rw [Memory.get?_write, if_neg (by omega)]

theorem Memory.cellsOf_wf (base : Nat) (bytes : List Byte) :
    (Memory.cellsOf base bytes).Pairwise fun x y => x.1 < y.1 := by
  suffices h : ∀ (bs : List Byte) (k : Nat),
      ((bs.zipIdx k).map fun x => (base + x.2, x.1)).Pairwise fun x y => x.1 < y.1 from h bytes 0
  intro bs
  induction bs with
  | nil => simp
  | cons b rest ih =>
    intro k
    simp only [List.zipIdx_cons, List.map_cons, List.pairwise_cons]
    refine ⟨?_, ih (k + 1)⟩
    intro x hx
    obtain ⟨y, hy, rfl⟩ := List.mem_map.mp hx
    have := List.le_snd_of_mem_zipIdx hy
    simp only
    omega

theorem Memory.mem_cellsOf_bounds {base : Nat} {bytes : List Byte} {x : Host.Cell}
    (h : x ∈ Memory.cellsOf base bytes) : base ≤ x.1 ∧ x.1 < base + bytes.length := by
  obtain ⟨y, hy, rfl⟩ := List.mem_map.mp h
  have h1 := List.le_snd_of_mem_zipIdx hy
  have h2 := List.snd_lt_of_mem_zipIdx hy
  simp only
  omega

/-- Every write keeps the canonical form. -/
theorem Memory.write_wf (m : List Host.Cell) (base : Nat) (bytes : List Byte) (h : Memory.wf m = true) :
    Memory.wf (Memory.write m base bytes) = true := by
  unfold Memory.wf at *
  simp only [decide_eq_true_eq] at *
  unfold Memory.write
  rw [List.append_assoc, List.pairwise_append, List.pairwise_append]
  refine ⟨h.filter _, ⟨Memory.cellsOf_wf base bytes, h.filter _, ?_⟩, ?_⟩
  · intro x hx y hy
    have := Memory.mem_cellsOf_bounds hx
    have := (List.mem_filter.mp hy).2
    simp only [decide_eq_true_eq] at this
    omega
  · intro x hx y hy
    have hx' := (List.mem_filter.mp hx).2
    simp only [decide_eq_true_eq] at hx'
    rcases List.mem_append.mp hy with hy | hy
    · have := Memory.mem_cellsOf_bounds hy
      omega
    · have := (List.mem_filter.mp hy).2
      simp only [decide_eq_true_eq] at this
      omega

/-- The empty memory, as reset leaves it, is in canonical form. -/
theorem Memory.nil_wf : Memory.wf [] = true := rfl

theorem State.reset_mem_wf : Memory.wf State.reset.mem = true := rfl

/-- The byte at an offset after a write. -/
theorem State.byteAt_writeBytes (s : State) (base : Nat) (bytes : List Byte) (a : Nat) :
    (s.writeBytes base bytes).byteAt a
      = if h : base ≤ a ∧ a < base + bytes.length then bytes[a - base]'(by omega) else s.byteAt a := by
  unfold State.byteAt
  simp only [State.writeBytes_mem, State.writeBytes_epoch, Memory.get?_write]
  by_cases h : base ≤ a ∧ a < base + bytes.length
  · rw [if_pos h, dif_pos h, List.getElem?_eq_getElem (by omega)]; rfl
  · rw [if_neg h, dif_neg h]

/-- The byte at an offset depends on memory and epoch alone. -/
theorem State.byteAt_congr {s t : State} (hm : t.mem = s.mem) (he : t.epoch = s.epoch) (a : Nat) :
    t.byteAt a = s.byteAt a := by
  unfold State.byteAt; rw [hm, he]

@[simp] theorem State.readBytes_length (s : State) (off len : Nat) : (s.readBytes off len).length = len := by
  simp [State.readBytes]

/-- A run of bytes reads the same in two states that agree on each of them. -/
theorem State.readBytes_congr {s t : State} {off len : Nat} (h : ∀ i, i < len → t.byteAt (off + i) = s.byteAt (off + i)) :
    t.readBytes off len = s.readBytes off len :=
  List.map_congr_left fun i hi => h i (List.mem_range.mp hi)

/-- Reading back exactly the run written. -/
theorem State.readBytes_writeBytes (s : State) (base : Nat) (bytes : List Byte) :
    (s.writeBytes base bytes).readBytes base bytes.length = bytes := by
  apply List.ext_getElem (by simp)
  intro i h1 h2
  simp only [State.readBytes, List.getElem_map, List.getElem_range]
  rw [State.byteAt_writeBytes, dif_pos ⟨by omega, by omega⟩]
  congr 1
  omega

/-- A run just written is listed. -/
theorem State.listed_writeBytes (s : State) (off : Nat) (bytes : List Byte) :
    (s.writeBytes off bytes).Listed off bytes.length := fun k hk => by
  rw [State.writeBytes_mem, Memory.get?_write_inside _ _ _ k hk]; rfl

/-- A write keeps what is listed. -/
theorem State.Listed.writeBytes {s : State} {off len : Nat} (h : s.Listed off len) (base : Nat) (bytes : List Byte) :
    (s.writeBytes base bytes).Listed off len := fun k hk => by
  rw [State.writeBytes_mem, Memory.get?_write]
  split
  · rw [List.getElem?_eq_getElem (by omega)]; rfl
  · exact h k hk

/-- What is listed depends on memory alone. -/
theorem State.Listed.congr {s t : State} {off len : Nat} (h : s.Listed off len) (hm : t.mem = s.mem) :
    t.Listed off len := fun k hk => by rw [hm]; exact h k hk

/-- A part of a listed run is listed. -/
theorem State.Listed.part {s : State} {off len : Nat} (h : s.Listed off len) {i n : Nat} (hn : i + n ≤ len) :
    s.Listed (off + i) n := fun k hk => by rw [Nat.add_assoc]; exact h (i + k) (by omega)

end Sys2Proof.Machine
end

