-- ==== Sys2Proof/Laws/Host.lean ====
section
/-! SUPPORT. What a bus write can do: one lemma that lists its endings with their conditions, and what a run of buffer byte writes
leaves unchanged. -/

namespace Sys2Proof.Machine

/-- A bus write ends in one of five ways (20_memory R62 to R68). -/
theorem State.busWrite_cases (s : State) (w : Width) (a v : Word) :
    s.busWrite w a v = s
      ∨ (s.resetLine = false ∧ s.status.busy = true ∧ w = .w32 ∧ s.offsetOf a = Reg.cmd.offset
          ∧ s.busWrite w a v = { s with status := { s.status with ovr := true } })
      ∨ (s.resetLine = false ∧ s.status.busy = false ∧ w = .w32 ∧ s.offsetOf a = Reg.cmd.offset
          ∧ s.busWrite w a v = s.accept v)
      ∨ (s.resetLine = false ∧ s.status.busy = false ∧ w = .w32
          ∧ ∃ r, r ≠ .cmd ∧ s.offsetOf a = r.offset ∧ s.busWrite w a v = s.storeReg r v)
      ∨ (s.resetLine = false ∧ s.status.busy = false ∧ s.offsetOf a % w.bytes = 0 ∧ 0x1000 ≤ s.offsetOf a
          ∧ s.busWrite w a v = (List.range w.bytes).foldl
              (fun t i => t.writeBufByte (s.offsetOf a + i) (byteLane v.toNat i)) s) := by
  unfold State.busWrite
  cases hr : s.resetLine with
  | true => exact .inl (by simp)
  | false =>
    by_cases hal : s.offsetOf a % w.bytes = 0
    · by_cases hp : s.offsetOf a < 0x1000
      · by_cases hw : w = .w32
        · subst hw
          cases hreg : regAt (s.offsetOf a) with
          | none => exact .inl (by simp [hal, inRegPage, hp, hreg])
          | some r =>
            have hoff : s.offsetOf a = r.offset := by
              have := List.find?_some hreg
              simpa using (beq_iff_eq.mp this).symm
            cases hb : s.status.busy with
            | true =>
              by_cases hc : r = .cmd
              · subst hc
                exact .inr (.inl ⟨rfl, rfl, rfl, hoff, by simp [hal, inRegPage, hp, hreg, State.writeReg, hb, hr]⟩)
              · exact .inl (by simp [hal, inRegPage, hp, hreg, State.writeReg, hb, hc])
            | false =>
              by_cases hc : r = .cmd
              · subst hc
                exact .inr (.inr (.inl ⟨rfl, rfl, rfl, hoff, by
                  simp [hal, inRegPage, hp, hreg, State.writeReg, hb]⟩))
              · exact .inr (.inr (.inr (.inl ⟨rfl, rfl, rfl, r, hc, hoff, by
                  simp [hal, inRegPage, hp, hreg, State.writeReg, hb, hc]⟩)))
        · exact .inl (by simp [hal, inRegPage, hp, hw])
      · cases hb : s.status.busy with
        | true => exact .inl (by simp [hal, inRegPage, hp])
        | false =>
          refine .inr (.inr (.inr (.inr ⟨rfl, rfl, hal, by omega, ?_⟩)))
          simp [hal, inRegPage, hp]
    · exact .inl (by simp [hal])

/-- A buffer byte write changes memory and, in TEXT_BUF, SEGV; nothing else (20_memory R67). -/
theorem State.writeBufByte_cases (s : State) (off : Nat) (b : Byte) :
    s.writeBufByte off b = s
      ∨ (windowOf s.cfg off = some .textBuf
          ∧ s.writeBufByte off b = { s.writeBytes off [b] with status := { s.status with segv := false } })
      ∨ (windowOf s.cfg off = some .rsBuf ∧ s.writeBufByte off b = s.writeBytes off [b]) := by
  unfold State.writeBufByte
  cases h : windowOf s.cfg off with
  | none => exact .inl rfl
  | some w => cases w <;> simp

end Sys2Proof.Machine
end

