-- ==== Sys2Proof/Laws/PerInstr.lean ====
section
/-! SUPPORT. The statements made for each instruction, one lemma per constructor. -/

namespace Sys2Proof.Laws.CommandWord

/-- The command's word is below 6, has RSVD = 0, and names the command alone (30_encoding R90, R91). -/
def Statement (i : Instr) : Prop :=
  i.wellFormed = true ∧ rsvdField (encode i) = 0 ∧ opField (encode i) < 6 ∧ decode (encode i) = .ok i
    ∧ ∀ j, encode j = encode i → j = i

theorem nop : Statement .nop := ⟨rfl, rfl, by decide, rfl, fun j h => by cases j <;> first | rfl | exact absurd h (by decide)⟩

theorem segment : Statement .segment :=
  ⟨rfl, rfl, by decide, rfl, fun j h => by cases j <;> first | rfl | exact absurd h (by decide)⟩

theorem build : Statement .build :=
  ⟨rfl, rfl, by decide, rfl, fun j h => by cases j <;> first | rfl | exact absurd h (by decide)⟩

theorem raster : Statement .raster :=
  ⟨rfl, rfl, by decide, rfl, fun j h => by cases j <;> first | rfl | exact absurd h (by decide)⟩

theorem generate : Statement .generate :=
  ⟨rfl, rfl, by decide, rfl, fun j h => by cases j <;> first | rfl | exact absurd h (by decide)⟩

theorem rsEncode : Statement .rsEncode :=
  ⟨rfl, rfl, by decide, rfl, fun j h => by cases j <;> first | rfl | exact absurd h (by decide)⟩

end Sys2Proof.Laws.CommandWord
end

