-- ==== Sys2Proof/Laws/Placement.lean ====
section
/-! SUPPORT. The codeword bits of every version fit the matrix: the function modules outside column 6 lie in an explicit
list of rectangles, whose areas leave at least 8*TOTAL(v) modules of the zigzag (43_matrix_layout R223, R227). -/

namespace Sys2Proof.Laws

open Sys2Proof.Machine

/-- A rectangle of modules: rows r0 to r1-1, columns c0 to c1-1. -/
structure Rect where
  r0 : Nat
  r1 : Nat
  c0 : Nat
  c1 : Nat

/-- The module lies in the rectangle. -/
def Rect.has (t : Rect) (x : Nat × Nat) : Bool :=
  Nat.ble t.r0 x.1 && Nat.blt x.1 t.r1 && (Nat.ble t.c0 x.2 && Nat.blt x.2 t.c1)

theorem Rect.has_iff (t : Rect) (r c : Nat) :
    t.has (r, c) = true ↔ t.r0 ≤ r ∧ r < t.r1 ∧ t.c0 ≤ c ∧ c < t.c1 := by
  simp [Rect.has, Nat.blt, and_assoc]

/-- The number of modules of a rectangle. -/
def Rect.area (t : Rect) : Nat := (t.r1 - t.r0) * (t.c1 - t.c0)

/-- The parts of row 6 from column `lo` to `hi`-1 that the alignment patterns centred at the columns `ps` leave. -/
def gapRects (lo : Nat) : List Nat → Nat → List Rect
  | [], hi => [⟨6, 7, lo, hi⟩]
  | p :: ps, hi => ⟨6, 7, lo, p - 2⟩ :: gapRects (p + 3) ps hi

/-- One alignment pattern less column 6. -/
def alignmentRects (x : Nat × Nat) : List Rect :=
  if x.2 = 6 then [⟨x.1 - 2, x.1 + 3, 4, 6⟩, ⟨x.1 - 2, x.1 + 3, 7, 9⟩]
  else [⟨x.1 - 2, x.1 + 3, x.2 - 2, x.2 + 3⟩]

/-- The finders, format positions and dark module of a matrix of side n, less column 6. -/
def cornerRects (n : Nat) : List Rect :=
  [⟨0, 8, 0, 6⟩, ⟨0, 8, 7, 8⟩, ⟨0, 8, n - 8, n⟩, ⟨n - 8, n, 0, 6⟩, ⟨n - 8, n, 7, 8⟩,
   ⟨8, 9, 0, 6⟩, ⟨8, 9, 7, 9⟩, ⟨0, 6, 8, 9⟩, ⟨7, 8, 8, 9⟩, ⟨8, 9, n - 8, n⟩, ⟨n - 7, n, 8, 9⟩, ⟨n - 8, n - 7, 8, 9⟩]

/-- The two version blocks. -/
def versionRects (v : Nat) : List Rect :=
  if 7 ≤ v then [⟨0, 6, sideOf v - 11, sideOf v - 8⟩, ⟨sideOf v - 11, sideOf v - 8, 0, 6⟩] else []

/-- Rectangles that hold every function module outside column 6. -/
def functionRects (v : Nat) : List Rect :=
  cornerRects (sideOf v) ++ versionRects v
    ++ (alignmentCentres (alignmentCoords v)).flatMap alignmentRects
    ++ gapRects 8 (alignmentCoords v).tail.dropLast (sideOf v - 8)

theorem gapRects_cover (ps : List Nat) (lo hi c : Nat) (h1 : lo ≤ c) (h2 : c < hi) :
    (∃ t ∈ gapRects lo ps hi, t.has (6, c) = true) ∨ ∃ p ∈ ps, p ≤ c + 2 ∧ c < p + 3 := by
  induction ps generalizing lo with
  | nil => exact .inl ⟨⟨6, 7, lo, hi⟩, by simp [gapRects], by rw [Rect.has_iff]; simp only; omega⟩
  | cons p ps ih =>
    by_cases a : c < p - 2
    · exact .inl ⟨⟨6, 7, lo, p - 2⟩, by simp [gapRects], by rw [Rect.has_iff]; simp only; omega⟩
    · by_cases b : c < p + 3
      · exact .inr ⟨p, by simp, by omega, b⟩
      · rcases ih (p + 3) (by omega) with ⟨t, ht, h⟩ | ⟨q, hq, h⟩
        · exact .inl ⟨t, by simp [gapRects, ht], h⟩
        · exact .inr ⟨q, by simp [hq], h⟩

/-- The inner alignment coordinates are at least 8, and give an alignment pattern on row 6 (43_matrix_layout R215). -/
theorem inner_centres (v : Nat) (h1 : 1 ≤ v) (h2 : v ≤ 40) :
    ∀ p ∈ (alignmentCoords v).tail.dropLast, 8 ≤ p ∧ (6, p) ∈ alignmentCentres (alignmentCoords v) := by
  have h : ∀ u : Fin 40, ∀ p ∈ (alignmentCoords (u.val + 1)).tail.dropLast,
      8 ≤ p ∧ (6, p) ∈ alignmentCentres (alignmentCoords (u.val + 1)) := by decide +kernel
  have := h ⟨v - 1, by omega⟩
  simpa [Nat.sub_add_cancel h1] using this

theorem mem_functionRects_corner {v : Nat} {t : Rect} (h : t ∈ cornerRects (sideOf v)) : t ∈ functionRects v := by
  simp [functionRects, h]

/-- Every function module outside column 6 lies in one of the rectangles. -/
theorem isFunction_in_rects (v r c : Nat) (h1 : 1 ≤ v) (h2 : v ≤ 40) (hr : r < sideOf v) (hc : c < sideOf v)
    (h6 : c ≠ 6) (h : isFunction v r c = true) : ∃ t ∈ functionRects v, t.has (r, c) = true := by
  have hn : sideOf v = 4 * v + 17 := rfl
  simp only [isFunction, patternAt, Option.isSome_or, Bool.or_eq_true] at h
  rcases h with h | h | h | h | h | h
  · -- version information
    unfold versionAt at h
    by_cases h7 : 7 ≤ v
    · have e : Nat.ble 7 v = true := Nat.ble_eq.mpr h7
      simp only [e, if_true] at h
      split at h
      · rename_i hx
        simp at hx
        exact ⟨⟨0, 6, sideOf v - 11, sideOf v - 8⟩, by simp [functionRects, versionRects, h7], by
          rw [Rect.has_iff]; simp only; omega⟩
      · split at h
        · rename_i hx
          simp at hx
          exact ⟨⟨sideOf v - 11, sideOf v - 8, 0, 6⟩, by simp [functionRects, versionRects, h7], by
            rw [Rect.has_iff]; simp only; omega⟩
        · simp at h
    · have e : Nat.ble 7 v = false := by
        rw [Bool.eq_false_iff]; intro hb; exact h7 (Nat.ble_eq.mp hb)
      simp [e] at h
  · -- dark module
    unfold darkModuleAt at h
    split at h
    · rename_i hx
      simp at hx
      exact ⟨⟨sideOf v - 8, sideOf v - 7, 8, 9⟩, mem_functionRects_corner (by simp [cornerRects]), by
        rw [Rect.has_iff]; simp only; omega⟩
    · simp at h
  · -- format positions
    unfold formatAt at h
    split at h
    · rename_i hx
      simp only [isFormatPos, Bool.and_eq_true, List.any_eq_true, List.mem_range, Bool.or_eq_true, beq_iff_eq] at hx
      obtain ⟨-, i, hi, hx⟩ := hx
      have key : (8 ≤ r ∧ r < 9 ∧ 0 ≤ c ∧ c < 6) ∨ (8 ≤ r ∧ r < 9 ∧ 7 ≤ c ∧ c < 9) ∨ (0 ≤ r ∧ r < 6 ∧ 8 ≤ c ∧ c < 9)
          ∨ (7 ≤ r ∧ r < 8 ∧ 8 ≤ c ∧ c < 9) ∨ (8 ≤ r ∧ r < 9 ∧ sideOf v - 8 ≤ c ∧ c < sideOf v)
          ∨ (sideOf v - 7 ≤ r ∧ r < sideOf v ∧ 8 ≤ c ∧ c < 9) := by
        rcases hx with hx | hx
        · unfold formatPos1 at hx
          split at hx
          · simp only [Prod.mk.injEq] at hx; omega
          · split at hx
            · simp only [Prod.mk.injEq] at hx; omega
            · split at hx
              · simp only [Prod.mk.injEq] at hx; omega
              · split at hx <;> simp only [Prod.mk.injEq] at hx <;> omega
        · unfold formatPos2 at hx
          split at hx <;> simp only [Prod.mk.injEq] at hx <;> omega
      rcases key with k | k | k | k | k | k
      · exact ⟨⟨8, 9, 0, 6⟩, mem_functionRects_corner (by simp [cornerRects]), (Rect.has_iff _ _ _).mpr k⟩
      · exact ⟨⟨8, 9, 7, 9⟩, mem_functionRects_corner (by simp [cornerRects]), (Rect.has_iff _ _ _).mpr k⟩
      · exact ⟨⟨0, 6, 8, 9⟩, mem_functionRects_corner (by simp [cornerRects]), (Rect.has_iff _ _ _).mpr k⟩
      · exact ⟨⟨7, 8, 8, 9⟩, mem_functionRects_corner (by simp [cornerRects]), (Rect.has_iff _ _ _).mpr k⟩
      · exact ⟨⟨8, 9, sideOf v - 8, sideOf v⟩, mem_functionRects_corner (by simp [cornerRects]),
          (Rect.has_iff _ _ _).mpr k⟩
      · exact ⟨⟨sideOf v - 7, sideOf v, 8, 9⟩, mem_functionRects_corner (by simp [cornerRects]),
          (Rect.has_iff _ _ _).mpr k⟩
    · simp at h
  · -- alignment patterns
    unfold alignmentsAt at h
    obtain ⟨b, hb⟩ := Option.isSome_iff_exists.mp h
    obtain ⟨x, hx, hb⟩ := List.exists_of_findSome?_eq_some hb
    have hd : ringOf x.1 x.2 r c ≤ 2 := by
      unfold alignmentAt at hb
      by_cases hd : ringOf x.1 x.2 r c ≤ 2
      · exact hd
      · rw [if_neg (fun e => hd (Nat.ble_eq.mp e))] at hb; exact absurd hb (by simp)
    unfold ringOf absDiff at hd
    · have d1 := (Nat.max_le.mp hd).1
      have d2 := (Nat.max_le.mp hd).2
      by_cases hx6 : x.2 = 6
      · by_cases hlt : c < 6
        · refine ⟨⟨x.1 - 2, x.1 + 3, 4, 6⟩, ?_, by rw [Rect.has_iff]; simp only; omega⟩
          simp only [functionRects, List.mem_append, List.mem_flatMap]
          exact .inl (.inr ⟨x, hx, by simp [alignmentRects, hx6]⟩)
        · refine ⟨⟨x.1 - 2, x.1 + 3, 7, 9⟩, ?_, by rw [Rect.has_iff]; simp only; omega⟩
          simp only [functionRects, List.mem_append, List.mem_flatMap]
          exact .inl (.inr ⟨x, hx, by simp [alignmentRects, hx6]⟩)
      · refine ⟨⟨x.1 - 2, x.1 + 3, x.2 - 2, x.2 + 3⟩, ?_, by rw [Rect.has_iff]; simp only; omega⟩
        simp only [functionRects, List.mem_append, List.mem_flatMap]
        exact .inl (.inr ⟨x, hx, by simp [alignmentRects, hx6]⟩)
  · -- finders
    simp only [findersAt, Option.isSome_or, Bool.or_eq_true] at h
    have key : ∀ r0 c0, (finderAt r0 c0 r c).isSome = true → (r - r0) + (r0 - r) ≤ 4 ∧ (c - c0) + (c0 - c) ≤ 4 := by
      intro r0 c0 hf
      unfold finderAt at hf
      by_cases hd : ringOf r0 c0 r c ≤ 4
      · exact Nat.max_le.mp hd
      · rw [if_neg (fun e => hd (Nat.ble_eq.mp e))] at hf; exact absurd hf (by simp)
    rcases h with h | h | h
    · have := key _ _ h
      by_cases hlt : c < 6
      · exact ⟨⟨0, 8, 0, 6⟩, mem_functionRects_corner (by simp [cornerRects]), by rw [Rect.has_iff]; simp only; omega⟩
      · exact ⟨⟨0, 8, 7, 8⟩, mem_functionRects_corner (by simp [cornerRects]), by rw [Rect.has_iff]; simp only; omega⟩
    · have := key _ _ h
      exact ⟨⟨0, 8, sideOf v - 8, sideOf v⟩, mem_functionRects_corner (by simp [cornerRects]), by
        rw [Rect.has_iff]; simp only; omega⟩
    · have := key _ _ h
      by_cases hlt : c < 6
      · exact ⟨⟨sideOf v - 8, sideOf v, 0, 6⟩, mem_functionRects_corner (by simp [cornerRects]), by
          rw [Rect.has_iff]; simp only; omega⟩
      · exact ⟨⟨sideOf v - 8, sideOf v, 7, 8⟩, mem_functionRects_corner (by simp [cornerRects]), by
          rw [Rect.has_iff]; simp only; omega⟩
  · -- timing
    have hr6 : r = 6 := by
      unfold timingAt at h
      split at h
      · rename_i hx; simpa using hx
      · split at h
        · rename_i hx; exact absurd (by simpa using hx) h6
        · simp at h
    subst hr6
    by_cases hlt : c < 6
    · exact ⟨⟨0, 8, 0, 6⟩, mem_functionRects_corner (by simp [cornerRects]), by rw [Rect.has_iff]; simp only; omega⟩
    by_cases h7 : c < 8
    · exact ⟨⟨0, 8, 7, 8⟩, mem_functionRects_corner (by simp [cornerRects]), by rw [Rect.has_iff]; simp only; omega⟩
    by_cases h8 : c < sideOf v - 8
    · rcases gapRects_cover (alignmentCoords v).tail.dropLast 8 (sideOf v - 8) c (by omega) h8 with
        ⟨t, ht, hh⟩ | ⟨p, hp, hp1, hp2⟩
      · exact ⟨t, by simp [functionRects, ht], hh⟩
      · obtain ⟨hp8, hm⟩ := inner_centres v h1 h2 p hp
        refine ⟨⟨4, 9, p - 2, p + 3⟩, ?_, by rw [Rect.has_iff]; simp only; omega⟩
        simp only [functionRects, List.mem_append, List.mem_flatMap]
        exact .inl (.inr ⟨(6, p), hm, by simp [alignmentRects, show p ≠ 6 by omega]⟩)
    · exact ⟨⟨0, 8, sideOf v - 8, sideOf v⟩, mem_functionRects_corner (by simp [cornerRects]), by
        rw [Rect.has_iff]; simp only; omega⟩

/-- A list of distinct numbers holds at most b - a numbers of a .. b-1. -/
theorem countP_interval_le (l : List Nat) (hl : l.Nodup) (a b : Nat) :
    l.countP (fun x => Nat.ble a x && Nat.blt x b) ≤ b - a := by
  rw [List.countP_eq_length_filter]
  have hs : (l.filter fun x => Nat.ble a x && Nat.blt x b) ⊆ List.range' a (b - a) := by
    intro x hx
    have := (List.mem_filter.mp hx).2
    simp [Nat.blt] at this
    rw [List.mem_range'_1]
    omega
  simpa using ((hl.filter _).subperm hs).length_le

/-- The columns of the zigzag in the order of travel. -/
def zigzagColumns (n : Nat) : List Nat := (columnPairs n).flatMap fun p => [p.1, p.1 - 1]

theorem zigzagColumns_sorted (v : Nat) : (zigzagColumns (sideOf v)).Pairwise (· > ·) := by
  unfold zigzagColumns columnPairs sideOf
  rw [List.pairwise_flatMap]
  constructor
  · intro p hp
    obtain ⟨k, hk, rfl⟩ := List.mem_map.mp hp
    have := List.mem_range.mp hk
    simp only [List.pairwise_cons, List.mem_singleton, List.not_mem_nil, false_implies, implies_true,
      List.Pairwise.nil, and_true, forall_eq]
    split <;> omega
  · rw [List.pairwise_map]
    refine List.Pairwise.imp_of_mem ?_ List.pairwise_lt_range
    intro i j hi hj hij x hx y hy
    have := List.mem_range.mp hi
    have := List.mem_range.mp hj
    simp only [List.mem_cons, List.not_mem_nil, or_false] at hx hy
    split at hx <;> split at hy <;> omega

/-- The rows of a column pair are distinct, whichever way it runs. -/
theorem rows_nodup (n : Nat) (up : Bool) : ((List.range n).map fun i => if up then n - 1 - i else i).Nodup := by
  refine List.Nodup.map_on ?_ List.nodup_range
  intro x hx y hy
  have := List.mem_range.mp hx
  have := List.mem_range.mp hy
  split <;> omega

theorem pair_count (a b d : Bool) :
    ((0 + if (a && b) = true then 1 else 0) + if (a && d) = true then 1 else 0)
      = (if a = true then 1 else 0) * ((0 + if b = true then 1 else 0) + if d = true then 1 else 0) := by
  cases a <;> cases b <;> cases d <;> rfl

/-- A column pair visits at most as many modules of a rectangle as the rectangle has rows, for each of its two columns in it. -/
theorem pair_countP_le (n : Nat) (p : Nat × Bool) (t : Rect) :
    (pairModules n p).countP t.has
      ≤ (t.r1 - t.r0) * [p.1, p.1 - 1].countP (fun x => Nat.ble t.c0 x && Nat.blt x t.c1) := by
  have key : (pairModules n p).countP t.has
      = ((List.range n).map fun i => if p.2 then n - 1 - i else i).countP (fun x => Nat.ble t.r0 x && Nat.blt x t.r1)
        * [p.1, p.1 - 1].countP (fun x => Nat.ble t.c0 x && Nat.blt x t.c1) := by
    unfold pairModules
    generalize List.range n = l
    induction l with
    | nil => simp
    | cons i rest ih =>
      rw [List.flatMap_cons, List.countP_append, ih, List.map_cons]
      generalize hm : rest.map _ = m
      rw [show ∀ (y : Nat), (y :: m).countP (fun x => Nat.ble t.r0 x && Nat.blt x t.r1)
        = m.countP (fun x => Nat.ble t.r0 x && Nat.blt x t.r1) + _ from fun y => List.countP_cons, Nat.add_mul,
        Nat.add_comm]
      congr 1
      simp only [Rect.has, List.countP_cons, List.countP_nil]
      exact pair_count _ _ _
  rw [key]
  exact Nat.mul_le_mul_right _ (countP_interval_le _ (rows_nodup n p.2) _ _)

/-- The zigzag visits at most as many modules of a rectangle as it has. -/
theorem zigzag_countP_le_area (v : Nat) (t : Rect) :
    ((columnPairs (sideOf v)).flatMap (pairModules (sideOf v))).countP t.has ≤ t.area := by
  have h : ∀ l : List (Nat × Bool), (l.flatMap (pairModules (sideOf v))).countP t.has
      ≤ (t.r1 - t.r0) * (l.flatMap fun p => [p.1, p.1 - 1]).countP (fun x => Nat.ble t.c0 x && Nat.blt x t.c1) := by
    intro l
    induction l with
    | nil => simp
    | cons p rest ih =>
      rw [List.flatMap_cons, List.countP_append, List.flatMap_cons, List.countP_append, Nat.mul_add]
      exact Nat.add_le_add (pair_countP_le _ p t) ih
  refine Nat.le_trans (h _) (Nat.mul_le_mul_left _ (countP_interval_le _ ?_ _ _))
  exact (zigzagColumns_sorted v).imp fun h => Nat.ne_of_gt h

/-- What the zigzag visits lies in the matrix, outside column 6. -/
theorem zigzag_bounds (v : Nat) (x : Nat × Nat) (h : x ∈ (columnPairs (sideOf v)).flatMap (pairModules (sideOf v))) :
    x.1 < sideOf v ∧ x.2 < sideOf v ∧ x.2 ≠ 6 := by
  obtain ⟨p, hp, hx⟩ := List.mem_flatMap.mp h
  obtain ⟨k, hk, rfl⟩ := List.mem_map.mp hp
  obtain ⟨i, hi, hx⟩ := List.mem_flatMap.mp hx
  have hk := List.mem_range.mp hk
  have hi := List.mem_range.mp hi
  unfold sideOf at *
  simp only [List.mem_cons, List.not_mem_nil, or_false] at hx
  rcases hx with rfl | rfl <;> refine ⟨?_, ?_, ?_⟩ <;> simp only <;> split <;> omega

theorem zigzag_length (v : Nat) :
    ((columnPairs (sideOf v)).flatMap (pairModules (sideOf v))).length = sideOf v * (sideOf v - 1) := by
  have h : ∀ l : List (Nat × Bool), (l.flatMap (pairModules (sideOf v))).length = l.length * (2 * sideOf v) := by
    intro l
    induction l with
    | nil => simp
    | cons p rest ih =>
      rw [List.flatMap_cons, List.length_append, ih, List.length_cons, Nat.add_mul, Nat.one_mul, Nat.add_comm]
      congr 1
      simp [pairModules, Nat.mul_comm]
  rw [h]
  have e : (columnPairs (sideOf v)).length * 2 = sideOf v - 1 := by
    simp [columnPairs, sideOf]; omega
  calc (columnPairs (sideOf v)).length * (2 * sideOf v)
      = ((columnPairs (sideOf v)).length * 2) * sideOf v := by ring
    _ = sideOf v * (sideOf v - 1) := by rw [e, Nat.mul_comm]

/-- A count is at most the sum of the counts of properties that cover it. -/
theorem countP_le_sum {α β : Type} (l : List α) (p : α → Bool) (ts : List β) (q : β → α → Bool)
    (h : ∀ x ∈ l, p x = true → ∃ t ∈ ts, q t x = true) : l.countP p ≤ (ts.map fun t => l.countP (q t)).sum := by
  induction l with
  | nil => simp
  | cons x rest ih =>
    have ihr := ih fun y hy => h y (List.mem_cons_of_mem _ hy)
    have e : (ts.map fun t => (x :: rest).countP (q t)).sum
        = (ts.map fun t => rest.countP (q t)).sum + (ts.countP fun t => q t x) := by
      clear h ih ihr
      induction ts with
      | nil => simp
      | cons t ts ih =>
        rw [List.map_cons, List.sum_cons, ih, List.map_cons, List.sum_cons, List.countP_cons, List.countP_cons]
        omega
    rw [e, List.countP_cons]
    by_cases hp : p x = true
    · obtain ⟨t, ht, hq⟩ := h x (List.mem_cons_self ..) hp
      have : 0 < ts.countP fun t => q t x := List.countP_pos_iff.mpr ⟨t, ht, hq⟩
      simp only [hp, if_true]; omega
    · simp only [hp, Bool.false_eq_true, if_false]; omega

/-- The areas leave room for the codeword bits, at every version. -/
theorem rect_areas (v : Nat) (h1 : 1 ≤ v) (h2 : v ≤ 40) :
    8 * totalCw v + ((functionRects v).map Rect.area).sum ≤ sideOf v * (sideOf v - 1) := by
  have h : ∀ u : Fin 40, 8 * totalCw (u.val + 1) + ((functionRects (u.val + 1)).map Rect.area).sum
      ≤ sideOf (u.val + 1) * (sideOf (u.val + 1) - 1) := by decide +kernel
  have := h ⟨v - 1, by omega⟩
  simpa [Nat.sub_add_cancel h1] using this

/-- Placement never overflows: the available modules of the zigzag hold 8*TOTAL(v) bits (43_matrix_layout R227). -/
theorem total_bits_fit (v : Nat) (h1 : 1 ≤ v) (h2 : v ≤ 40) : 8 * totalCw v ≤ (placementOrder v).length := by
  unfold placementOrder
  set visited := (columnPairs (sideOf v)).flatMap (pairModules (sideOf v)) with hv
  have hlen : visited.length = sideOf v * (sideOf v - 1) := zigzag_length v
  have hsum : visited.countP (fun x => isFunction v x.1 x.2) ≤ ((functionRects v).map Rect.area).sum := by
    refine Nat.le_trans (countP_le_sum visited _ (functionRects v) Rect.has ?_) ?_
    · intro x hx hf
      obtain ⟨a, b, c⟩ := zigzag_bounds v x hx
      exact isFunction_in_rects v x.1 x.2 h1 h2 a b c hf
    · exact List.sum_le_sum fun t _ => zigzag_countP_le_area v t
  have hsplit := List.length_eq_countP_add_countP (fun x : Nat × Nat => isFunction v x.1 x.2) (l := visited)
  have hnot : (visited.filter fun x => !isFunction v x.1 x.2).length
      = visited.countP fun x => decide ¬ isFunction v x.1 x.2 = true := by
    rw [← List.countP_eq_length_filter]
    congr 1
    funext x
    cases isFunction v x.1 x.2 <;> rfl
  have := rect_areas v h1 h2
  omega

/-- Placing TOTAL(v) codewords succeeds at every version (43_matrix_layout R227: the check never fails). -/
theorem place_isSome (cw : List Byte) (v : Nat) (g : Grid) (h1 : 1 ≤ v) (h2 : v ≤ 40) (h : cw.length = totalCw v) :
    ∃ m, place cw v g = some m := by
  unfold place
  have := total_bits_fit v h1 h2
  simp only
  rw [if_neg (by omega)]
  exact ⟨_, rfl⟩

end Sys2Proof.Laws
end

