-- ==== Sys2Proof/Laws/Stages.lean ====
section
/-! SUPPORT. What each command's body can do: one lemma per stage that lists its endings with their conditions, what running a
sequence of stages can do, and where the matrix rows are written. -/

namespace Sys2Proof.Machine

/-- SEGMENT ends in one of two ways (40_segmenter R130, R131). -/
theorem segmentStage_cases (s : State) :
    ((s.textLen = 0 ∨ s.cfg.textMax < s.textLen) ∧ segmentStage s = .raised .invalidInput s.segmentStart)
      ∨ (1 ≤ s.textLen ∧ s.textLen ≤ s.cfg.textMax
          ∧ segmentStage s = .ok (s.segmentStart.writeSegments (segmentText (s.textBytes 0 s.textLen)))) := by
  unfold segmentStage
  by_cases h0 : s.textLen = 0
  · exact .inl ⟨.inl h0, by simp [h0]⟩
  · by_cases h1 : s.cfg.textMax < s.textLen
    · exact .inl ⟨.inr h1, by simp [h0, h1]⟩
    · exact .inr ⟨by omega, by omega, by simp [h0, h1]⟩

/-- BUILD after its SEGV check ends in one of three ways (44_mask_penalty R250). -/
theorem buildSegments_cases (s : State) (ss : List SegData) (lv : Level) :
    (selectVersion ss lv = none ∧ buildSegments s ss lv = .raised .dataTooLong (s.reportTooLong ss lv))
      ∨ (∃ v, selectVersion ss lv = some v ∧ encodeSymbol ss lv v = none
          ∧ buildSegments s ss lv = .raised .internalEncodingError s.anyBuild)
      ∨ ∃ v y, selectVersion ss lv = some v ∧ encodeSymbol ss lv v = some y
          ∧ buildSegments s ss lv = .ok (s.writeSymbol y) := by
  unfold buildSegments
  cases hv : selectVersion ss lv with
  | none => exact .inl ⟨rfl, rfl⟩
  | some v =>
    cases hy : encodeSymbol ss lv v with
    | none => exact .inr (.inl ⟨v, rfl, hy, by simp [hy]⟩)
    | some y => exact .inr (.inr ⟨v, y, rfl, hy, by simp [hy]⟩)

/-- BUILD ends in one of three ways (44_mask_penalty R250). -/
theorem buildStage_cases (s : State) :
    (s.status.segv = false ∧ buildStage s = .raised .invalidInput s.buildStart)
      ∨ (s.status.segv = true ∧ s.segments = none
          ∧ buildStage s = .raised .internalEncodingError s.buildStart.anyBuild)
      ∨ ∃ segs, s.status.segv = true ∧ s.segments = some segs
          ∧ buildStage s = buildSegments s.buildStart (segs.map s.segData) s.level := by
  unfold buildStage
  cases h : s.status.segv with
  | false => exact .inl ⟨rfl, by simp⟩
  | true =>
    cases hs : s.segments with
    | none => exact .inr (.inl ⟨rfl, rfl, by simp⟩)
    | some segs => exact .inr (.inr ⟨segs, rfl, rfl, by simp⟩)

/-- RASTER ends in one of three ways (45_rasterizer R275, R276). -/
theorem rasterStage_cases (s : State) :
    ((s.status.symv = false ∨ s.rasterW = 0) ∧ rasterStage s = .raised .invalidInput s.rasterStart)
      ∨ (s.status.symv = true ∧ s.rasterW ≠ 0
          ∧ s.cfg.pixMax < outDim s.rasterW s.rasterN s.rasterM * outDim s.rasterW s.rasterN s.rasterM
          ∧ rasterStage s = .raised .bufferOverflow s.rasterStart.writeRasterSize)
      ∨ (s.status.symv = true ∧ s.rasterW ≠ 0
          ∧ outDim s.rasterW s.rasterN s.rasterM * outDim s.rasterW s.rasterN s.rasterM ≤ s.cfg.pixMax
          ∧ rasterStage s = .ok { s.rasterStart.writeRasterSize.writeBytes (Window.base .pixelBuf)
                (s.image.flatMap fun w => bytesLE 4 w.toNat) with
              status := { s.status with pixv := true } }) := by
  unfold rasterStage
  cases hs : s.status.symv with
  | false => exact .inl ⟨.inl rfl, by simp⟩
  | true =>
    by_cases hw : s.rasterW = 0
    · exact .inl ⟨.inr hw, by simp [hw]⟩
    · by_cases hp : s.cfg.pixMax < outDim s.rasterW s.rasterN s.rasterM * outDim s.rasterW s.rasterN s.rasterM
      · exact .inr (.inl ⟨rfl, hw, hp, by simp [hw, hp]⟩)
      · exact .inr (.inr ⟨rfl, hw, by omega, by simp [hw, hp]⟩)

/-- RS_ENCODE's checks pass exactly on the operands of 42_reed_solomon R189. -/
theorem State.rsLegal_iff (s : State) :
    s.rsLegal = true ↔ s.rsK ≠ 0 ∧ s.rsE ≠ 0 ∧ s.rsE ≤ s.cfg.rsMaxEc ∧ s.rsK + s.rsE ≤ 255 := by
  simp [State.rsLegal, and_assoc]

/-- RS_ENCODE ends in one of two ways (42_reed_solomon R188). -/
theorem rsEncodeStage_cases (s : State) :
    (s.rsLegal = false ∧ rsEncodeStage s = .raised .invalidInput s)
      ∨ (s.rsLegal = true ∧ rsEncodeStage s
          = .ok (s.writeBytes (Window.base .rsBuf + s.rsK) (rsEc (s.rsBytes s.rsK) s.rsE))) := by
  unfold rsEncodeStage
  cases h : s.rsLegal with
  | false => exact .inl ⟨rfl, by simp⟩
  | true => exact .inr ⟨rfl, by simp⟩

/-- A sequence of two stages ends where the first raises, or as the second does. -/
theorem Stage.andThen_cases (x : Stage) (f : State → Stage) :
    (∃ e s, x = .raised e s ∧ x.andThen f = .raised e s) ∨ ∃ s, x = .ok s ∧ x.andThen f = f s := by
  cases x with
  | ok s => exact .inr ⟨s, rfl, rfl⟩
  | raised e s => exact .inl ⟨e, s, rfl, rfl⟩

@[simp] theorem Stage.finish_ok (s : State) : (Stage.ok s).finish = s.complete .none := rfl
@[simp] theorem Stage.finish_raised (e : ErrCode) (s : State) : (Stage.raised e s).finish = s.complete e := rfl
@[simp] theorem Stage.andThen_ok (s : State) (f : State → Stage) : (Stage.ok s).andThen f = f s := rfl
@[simp] theorem Stage.andThen_raised (e : ErrCode) (s : State) (f : State → Stage) :
    (Stage.raised e s).andThen f = .raised e s := rfl

/-- The bytes after the matrix rows are written: module (r, c) at 177*r + c, every other byte as before (10_state R51). -/
theorem State.byteAt_writeMatrix (s : State) (g : Grid) (h : g.side ≤ 177) (a : Nat) :
    (∀ r c, r < g.side → c < g.side → a = Window.base .matrixBuf + 177 * r + c →
        (s.writeMatrix g).byteAt a = g.moduleByte r c)
      ∧ ((∀ r c, r < g.side → c < g.side → a ≠ Window.base .matrixBuf + 177 * r + c) →
        (s.writeMatrix g).byteAt a = s.byteAt a) := by
  unfold State.writeMatrix
  suffices key : ∀ (n : Nat) (t : State),
      (∀ r c, r < n → c < g.side → a = Window.base .matrixBuf + 177 * r + c →
        ((List.range n).foldl (fun s r => s.writeBytes (Window.base .matrixBuf + 177 * r)
          ((List.range g.side).map (g.moduleByte r))) t).byteAt a = g.moduleByte r c)
      ∧ ((∀ r c, r < n → c < g.side → a ≠ Window.base .matrixBuf + 177 * r + c) →
        ((List.range n).foldl (fun s r => s.writeBytes (Window.base .matrixBuf + 177 * r)
          ((List.range g.side).map (g.moduleByte r))) t).byteAt a = t.byteAt a) from key g.side s
  intro n t
  induction n with
  | zero => exact ⟨fun r c hr => absurd hr (by omega), fun _ => rfl⟩
  | succ n ih =>
    rw [List.range_succ, List.foldl_append, List.foldl_cons, List.foldl_nil]
    constructor
    · intro r c hr hc ha
      rw [State.byteAt_writeBytes]
      by_cases hrn : r = n
      · subst hrn
        rw [dif_pos (by simp; omega), List.getElem_map, List.getElem_range]
        congr 1
        omega
      · rw [dif_neg (by simp; omega)]
        exact ih.1 r c (by omega) hc ha
    · intro hne
      rw [State.byteAt_writeBytes, dif_neg ?_]
      · exact ih.2 fun r c hr hc => hne r c (by omega) hc
      · simp only [List.length_map, List.length_range]
        intro hin
        exact hne n (a - (Window.base .matrixBuf + 177 * n)) (by omega) (by omega) (by omega)

/-- Writing the matrix keeps the memory's canonical form. -/
theorem State.writeMatrix_wf (s : State) (g : Grid) (h : Memory.wf s.mem = true) :
    Memory.wf (s.writeMatrix g).mem = true := by
  unfold State.writeMatrix
  suffices key : ∀ (rows : List Nat) (t : State), Memory.wf t.mem = true → Memory.wf (rows.foldl (fun s r =>
      s.writeBytes (Window.base .matrixBuf + 177 * r) ((List.range g.side).map (g.moduleByte r))) t).mem = true from
    key _ s h
  intro rows
  induction rows with
  | nil => exact fun _ ht => ht
  | cons r rest ih => exact fun t ht => ih _ (Memory.write_wf _ _ _ ht)

end Sys2Proof.Machine
end

