-- ==== Sys2Proof/Tests/Slice0.lean ====
section
/-! SUPPORT. The model's own tests, each result from the spec (95_test_vectors, or the worked example its comment names), the
smoke tests of the static checks, and a witness for every statement that has hypotheses. -/

namespace Sys2Proof.Tests

open Sys2Proof.Machine

set_option Elab.async false

/-! ### Helpers -/

/-- The completion answers a next state that has the property. -/
def completes (o : Host.Outcome State Fault Refusal) (p : State → Bool) : Bool :=
  match o with
  | .next t => p t
  | .fault _ | .refused _ => false

/-- A block right after reset with a text in TEXT_BUF and its length in TEXT_LEN. -/
def withText (bytes : List Byte) : State :=
  let s := State.reset.writeBytes 0x10000 bytes
  { s with conf := { s.conf with textLen := BitVec.ofNat 16 bytes.length } }

/-- "HELLO". -/
def hello : List Byte := [0x48, 0x45, 0x4C, 0x4C, 0x4F]

/-- A block with data in RS_BUF, K and E set. -/
def withBlock (bytes : List Byte) (k e : BitVec 8) : State :=
  let s := State.reset.writeBytes 0x1000 bytes
  { s with conf := { s.conf with rsDataLen := k, rsEcLen := e } }

/-- A block whose segment table holds one BYTE segment of one byte, "a", with SEGV = 1. -/
def withTable : State :=
  let s := (withText [0x61]).writeBytes 0x20000 (segEntryBytes { mode := .byte, start := 0, count := 1 })
  { s with segCount := 1, status := { s.status with segv := true } }

/-- A block that holds a valid 1 x 1 symbol, its module dark, with width w and margin m. -/
def withDot (w : BitVec 16) (m : BitVec 8) : State :=
  let s := State.reset.writeBytes 0x50000 [0x03]
  { s with build := { s.build with side := 1 }, status := { s.status with symv := true }
           conf := { s.conf with pixelWidth := w, margin := m } }

/-- A block that runs the command word w, with `delay` host steps to go and the given pending inputs. -/
def running (w : Word) (delay : Nat) (queue : List HostOp) : State :=
  { State.reset with cmd := w, latchedOp := w, phase := .running, status := { busy := true }
                     delayLeft := delay, hostQueue := queue }

theorem running_control (w : Word) (delay : Nat) (queue : List HostOp) : ControlInv (running w delay queue) :=
  ⟨⟨fun _ => rfl, fun _ => rfl⟩, rfl, fun h => absurd h (by simp [running]), by simp [running, State.reset, State.afterReset],
    fun h => absurd h (by simp [running]), fun h => absurd h (by simp [running, State.reset, State.afterReset])⟩

/-! ### The static checks -/

/-- A text buffer below 7089 bytes breaks the constraint of 00_scope R6. -/
theorem test_config_small_text_refused : Config.wellFormed { textMax := 7088 } = false := by decide

/-- A segment table with fewer entries than TEXT_MAX breaks it. -/
theorem test_config_small_table_refused : Config.wellFormed { segMax := 8191 } = false := by decide

/-- Each other constraint of 00_scope R6, 20_memory R61 and 93_implementation_defined U19, U20 broken in turn. -/
theorem test_config_others_refused :
    Config.wellFormed { pixMax := 471968 } = false ∧ Config.wellFormed { rsMaxEc := 29 } = false
      ∧ Config.wellFormed { textMax := 8193, segMax := 8193 } = false ∧ Config.wellFormed { segMax := 8193 } = false
      ∧ Config.wellFormed { pixMax := 4194305 } = false ∧ Config.wellFormed { defaultEcl := 0 } = false
      ∧ Config.wellFormed { defaultPixelWidth := 301 } = false
      ∧ Config.wellFormed { defaultMargin := 7 } = false ∧ Config.wellFormed { defaultMargin := 1 } = false
      ∧ Config.wellFormed { defaultDark := 0x010101FF } = false
      ∧ Config.wellFormed { defaultLight := 0xFFFFFF00 } = false := by decide

theorem test_config_default_passes : Config.wellFormed {} = true := by decide

/-- WR8 and WR16 of a value wider than the access are no statements of 30_encoding R95. -/
theorem test_hostop_wide_value_refused :
    HostOp.wellFormed (.write .w8 0x10000 0x100) = false ∧ HostOp.wellFormed (.write .w16 0x10000 0x10000) = false := by
  decide

theorem test_hostop_passes :
    HostOp.wellFormed (.write .w8 0x10000 0xFF) = true ∧ HostOp.wellFormed (.write .w32 4 0xFFFFFFFF) = true := by decide

/-! ### Decoding: the words of 30_encoding R91, bit by bit (RSVD = 28 zero bits, then OP) -/

theorem test_decode_nop : decode 0b00000000000000000000000000000000 = .ok .nop := by decide
theorem test_decode_segment : decode 0b00000000000000000000000000000001 = .ok .segment := by decide
theorem test_decode_build : decode 0b00000000000000000000000000000010 = .ok .build := by decide
theorem test_decode_raster : decode 0b00000000000000000000000000000011 = .ok .raster := by decide
theorem test_decode_generate : decode 0b00000000000000000000000000000100 = .ok .generate := by decide
theorem test_decode_rsEncode : decode 0b00000000000000000000000000000101 = .ok .rsEncode := by decide

/-- V-ERR-1, V-ERR-3, V-ERR-4. -/
theorem test_decode_rejects :
    decode 0x00000010 = .error .reservedField ∧ decode 0x80000002 = .error .reservedField
      ∧ decode 0x00000006 = .error .reservedOpcode ∧ decode 0x0000000F = .error .reservedOpcode := by decide

theorem test_decodeTableWord : decodeTableWord 32 5 = some .rsEncode ∧ decodeTableWord 32 6 = none
    ∧ decodeTableWord 8 4 = some .generate := by decide

/-! ### NOP -/

/-- V-CTL-1: NOP from reset gives STATUS 0x02. -/
theorem test_nop_status :
    completes (step (State.reset.withFetchWord 32 0)) (fun t => t.readReg .status == 0x02 && t.readReg .errcode == 0) = true := by
  decide

/-! ### SEGMENT -/

/-- V-SEG-5: "HELLO world 42". -/
theorem test_segment_entries :
    completes (exec .segment (withText
        [0x48, 0x45, 0x4C, 0x4C, 0x4F, 0x20, 0x77, 0x6F, 0x72, 0x6C, 0x64, 0x20, 0x34, 0x32])) (fun t =>
      t.segCount == 3 && t.status.segv
        && ((List.range 3).map fun i => (List.range 4).map (t.segWord i))
            == [[2, 0, 6, 33], [4, 6, 5, 40], [2, 11, 3, 17]]) = true := by decide +kernel

/-- V-SEG-19: TEXT_LEN = TEXT_MAX + 1. -/
theorem test_segment_oversize :
    completes (exec .segment { State.reset with conf := { State.reset.conf with textLen := 8193 } }) (fun t =>
      t.readReg .errcode == 1 && t.segCount == 0 && !t.status.segv) = true := by decide +kernel

/-- V-SEG-6, V-SEG-7, V-SEG-8: "12ab34", "1A", "A1". -/
theorem test_segmentText :
    segmentText [0x31, 0x32, 0x61, 0x62, 0x33, 0x34]
        = [⟨.num, 0, 2⟩, ⟨.byte, 2, 2⟩, ⟨.num, 4, 2⟩]
      ∧ segmentText [0x31, 0x41] = [⟨.alnum, 0, 2⟩] ∧ segmentText [0x41, 0x31] = [⟨.alnum, 0, 2⟩] := by decide

/-- V-PACK-1, V-PACK-4, V-PACK-7: "007", "12", "::". -/
theorem test_pack :
    pack .num [0x30, 0x30, 0x37] = bitsMsb 10 0b0000000111 ∧ pack .num [0x31, 0x32] = bitsMsb 7 0b0001100
      ∧ pack .alnum [0x3A, 0x3A] = bitsMsb 11 0b11111101000 := by decide

/-- V-PACK-8: "AC-42". -/
theorem test_pack_alnum : pack .alnum [0x41, 0x43, 0x2D, 0x34, 0x32]
    = bitsMsb 28 0b0011100111011100111001000010 := by decide

/-! ### The steps of BUILD -/

/-- V-BIT-1: "HELLO" at M. -/
theorem test_dataCodewords_hello : dataCodewords [⟨.alnum, hello⟩] 1 .m
    = [0x20, 0x2B, 0x0B, 0x78, 0xCC, 0x00, 0xEC, 0x11, 0xEC, 0x11, 0xEC, 0x11, 0xEC, 0x11, 0xEC, 0x11] := by decide +kernel

/-- V-BIT-7: 16 digits are the most version 1 holds at H. -/
theorem test_selectVersion : selectVersion [⟨.num, List.replicate 16 0x30⟩] .h = some 1
    ∧ selectVersion [⟨.num, List.replicate 17 0x30⟩] .h = some 2 := by decide +kernel

/-- V-GF-3, V-GF-4, V-GF-6, V-GF-7. -/
theorem test_gfMul : gfMul 0x02 0x80 = 0x1D ∧ gfMul 0x80 0x80 = 0x13 ∧ gfMul 0x53 0xCA = 0x8F ∧ gfMul 0xFF 0xFF = 0xE2 := by
  decide +kernel

/-- V-RS-3: the generator for 7 EC codewords. -/
theorem test_genPoly : genPoly 7 = [0x01, 0x7F, 0x7A, 0x9A, 0xA4, 0x0B, 0x44, 0x75] := by decide +kernel

/-- V-IL-3: 5-Q has two blocks of 15 and two of 16 data codewords; the data phase interleaves them. -/
theorem test_interleave : blockDataLens 5 .q = [15, 15, 16, 16]
    ∧ roundRobin (shortData 5 .q + 1) (dealOut (blockDataLens 5 .q) ((List.range 62).map (BitVec.ofNat 8)))
      = ((List.range 15).flatMap fun i => [i, 15 + i, 30 + i, 46 + i].map (BitVec.ofNat 8)) ++ [45, 61] := by decide +kernel

/-- V-RS-7: the EC codewords of "HELLO" at 1-M. -/
theorem test_rsEc_hello : rsEc [0x20, 0x2B, 0x0B, 0x78, 0xCC, 0x00, 0xEC, 0x11, 0xEC, 0x11, 0xEC, 0x11, 0xEC, 0x11, 0xEC, 0x11] 10
    = [0x4D, 0xDD, 0x85, 0x13, 0xDB, 0x5F, 0x47, 0x73, 0x9A, 0x65] := by decide +kernel

/-- V-BLD-1: candidate 6 of "HELLO" at 1-M scores 1000, and row 8 of it is that of 44_mask_penalty section 5. -/
theorem test_candidate_hello :
    ((place [0x20, 0x2B, 0x0B, 0x78, 0xCC, 0x00, 0xEC, 0x11, 0xEC, 0x11, 0xEC, 0x11, 0xEC, 0x11, 0xEC, 0x11,
        0x4D, 0xDD, 0x85, 0x13, 0xDB, 0x5F, 0x47, 0x73, 0x9A, 0x65] 1 (layout 1)).map fun m =>
      let g := candidate m .m 6
      (g.penalty, (List.range 21).map (g.darkAt 8)))
    = some (1000, bitsMsb 21 0b100111111010110010111) := by decide +kernel

/-- V-LAY-5, V-LAY-1: the placement order of version 1. -/
theorem test_placementOrder : (placementOrder 1).length = 208
    ∧ (placementOrder 1).take 4 = [(20, 20), (20, 19), (19, 20), (19, 19)]
    ∧ (placementOrder 1).drop 206 = [(12, 1), (12, 0)] := by decide +kernel

/-- V-LAY-7, V-LAY-8: format words of M and H, version words. -/
theorem test_words : (List.range 8).map (formatWord .m) = [0x5412, 0x5125, 0x5E7C, 0x5B4B, 0x45F9, 0x40CE, 0x4F97, 0x4AA0]
    ∧ (List.range 8).map (formatWord .h) = [0x1689, 0x13BE, 0x1CE7, 0x19D0, 0x0762, 0x0255, 0x0D0C, 0x083B]
    ∧ [7, 8, 21, 40].map versionWord = [0x07C94, 0x085BC, 0x15683, 0x28C69] := by decide +kernel

/-- V-LAY-9: version 7, copy 1. -/
theorem test_versionAt : ((List.range 6).map fun r => [34, 35, 36].map fun c => versionAt 7 r c)
    = [[false, false, true], [false, true, false], [false, true, false], [false, true, true], [true, true, true],
       [false, false, false]].map (List.map some) := by decide +kernel

/-- 95_test_vectors section 2.5: the masks at (0,0), (0,1), (1,0), (1,1), (2,3), (3,2), (5,5). -/
theorem test_masks : ((List.range 8).map fun k =>
      [(0, 0), (0, 1), (1, 0), (1, 1), (2, 3), (3, 2), (5, 5)].map fun x => maskBit k x.1 x.2)
    = [[1, 0, 0, 1, 0, 0, 1], [1, 1, 0, 0, 1, 0, 0], [1, 0, 1, 0, 1, 0, 0], [1, 0, 0, 0, 0, 0, 0],
       [1, 1, 1, 1, 1, 0, 0], [1, 1, 1, 0, 1, 1, 0], [1, 1, 1, 1, 1, 1, 1], [1, 0, 0, 0, 0, 0, 0]].map
        (List.map (· == 1)) := by decide +kernel

/-- The line vectors of 44_mask_penalty section 5: 11111, 1111100000, and 11111111111. -/
theorem test_n1Line : n1Line (List.replicate 5 true) = 3
    ∧ n1Line (List.replicate 5 true ++ List.replicate 5 false) = 6 ∧ n1Line (List.replicate 11 true) = 9
    ∧ n1Line (List.replicate 4 true) = 0 := by decide

/-- The line vectors of 44_mask_penalty section 5: 1011101, 010111010, 10111011011101, 0000101110100000. -/
theorem test_n3Line : n3From [] (bitsMsb 7 0b1011101) = 1 ∧ n3From [] (bitsMsb 9 0b010111010) = 1
    ∧ n3From [] (bitsMsb 14 0b10111011011101) = 2 ∧ n3From [] (bitsMsb 16 0b0000101110100000) = 1 := by decide

/-- V-PEN-1: 21 x 21, all light. -/
theorem test_penalty_all_light :
    let g : Grid := { side := 21, dark := Array.replicate 441 false, func := #[] }
    (g.n1, g.n2, g.n3, g.n4) = (798, 1200, 0, 100) := by decide +kernel

/-! ### BUILD -/

/-- V-BLD-9: BUILD with SEGV = 0. -/
theorem test_build_no_table :
    completes (exec .build State.reset) (fun t => t.readReg .errcode == 1 && t.readReg .status == 0x06) = true := by
  decide +kernel

/-! ### RASTER -/

/-- A 1 x 1 matrix, W = 7, M = 1: T = 3, mp = 2, dim = 6 (45_rasterizer R271 to R273); dark at rows and columns 2 and 3 only. -/
theorem test_raster_pixels :
    completes (exec .raster (withDot 7 1)) (fun t =>
      t.readReg .modulePx == 2 && t.readReg .outDim == 6 && t.status.pixv
        && ((List.range 36).filter fun i => natOfBytesLE (t.readBytes (0x1000000 + 4 * i) 4) == 0x000000FF)
            == [14, 15, 20, 21]) = true := by decide +kernel

/-- V-RAS-10 with N = 21: W = 2059, M = 4. -/
theorem test_raster_overflow :
    completes (exec .raster { withDot 2059 4 with build := { State.reset.build with side := 21 } }) (fun t =>
      t.readReg .errcode == 5 && t.readReg .modulePx == 71 && t.readReg .outDim == 2059 && !t.status.pixv) = true := by
  decide +kernel

/-! ### GENERATE -/

/-- V-CTL-6, with SYMV and PIXV as before: TEXT_LEN = 0. -/
theorem test_generate_empty :
    completes (exec .generate (withDot 7 1)) (fun t => t.readReg .errcode == 1 && t.readReg .status == 0x16) = true := by
  decide +kernel

/-! ### RS_ENCODE -/

/-- V-RSC-1. -/
theorem test_rsEncode :
    completes (exec .rsEncode (withBlock
        [0x10, 0x20, 0x0C, 0x56, 0x61, 0x80, 0xEC, 0x11, 0xEC, 0x11, 0xEC, 0x11, 0xEC, 0x11, 0xEC, 0x11] 16 10)) (fun t =>
      t.readReg .errcode == 0
        && t.rsBytes 26 == [0x10, 0x20, 0x0C, 0x56, 0x61, 0x80, 0xEC, 0x11, 0xEC, 0x11, 0xEC, 0x11, 0xEC, 0x11, 0xEC, 0x11,
            0xA5, 0x24, 0xD4, 0xC1, 0xED, 0x36, 0xC7, 0x87, 0x2C, 0x55]) = true := by decide +kernel

/-- V-RSC-4 to V-RSC-7. -/
theorem test_rsEncode_rejects :
    [(226, 30), (0, 10), (10, 0), (10, 31)].all (fun x => completes (exec .rsEncode (withBlock [] x.1 x.2)) fun t =>
      t.readReg .errcode == 1 && t.mem == []) = true := by decide +kernel

/-! ### The host port -/

/-- V-ERR-6, V-ERR-7, V-ERR-8. -/
theorem test_bus_misuse :
    State.reset.busWrite .w16 0x004 0 = State.reset ∧ State.reset.busRead .w32 0x030 = 0
      ∧ (State.reset.busWrite .w32 0x000 5).busRead .w32 0x000 = 0x51520001 := by decide +kernel

/-- V-ERR-5: CMD written while BUSY = 1. -/
theorem test_bus_overrun :
    completes (step { running 0 9 [] with hostQueue := [.write .w32 0x004 5] }) (fun t =>
      t.status.ovr && t.cmd == 0 && completes (step t) fun u => u.readReg .status == 0x42) = true := by decide +kernel

/-- A 32-bit little-endian write to TEXT_BUF clears SEGV and reads back byte by byte (20_memory R63, R67). -/
theorem test_bus_text_write :
    let t := withTable.busWrite .w32 0x10004 0x44332211
    (!t.status.segv && t.busRead .w8 0x10004 == 0x11 && t.busRead .w16 0x10006 == 0x4433) = true := by decide +kernel

/-! ### Witnesses: for each statement with hypotheses, a concrete state and operands that meet them all -/

theorem witness_IllegalWordCompletes :
    (running 6 0 []).completionDue = true ∧ 6 ≤ (running 6 0 []).latchedOp.toNat
      ∧ (running 0xFFFFFFF2 3 []).completionDue = true ∧ 6 ≤ (running 0xFFFFFFF2 3 []).latchedOp.toNat
      ∧ ControlInv (running 6 0 []) := ⟨by decide, by decide, by decide, by decide, running_control 6 0 []⟩

theorem witness_StepRunsDecodedCommand :
    (running 5 0 [.wait]).completionDue = true ∧ decode (running 5 0 [.wait]).latchedOp = .ok .rsEncode
      ∧ decode 0x00000000 = .ok .nop := by decide

theorem witness_StepTakesNextInput :
    State.reset.completionDue = false ∧ State.reset.hostQueue = []
      ∧ (running 0 1 [.wait]).completionDue = false ∧ (running 0 1 [.wait]).hostQueue = .wait :: [] := by decide

theorem witness_AcceptedCommandCompletes :
    ControlInv (running 0 2 [.wait]) ∧ (running 0 2 [.wait]).phase = .running ∧ (running 0 2 [.wait]).resetLine = false
      ∧ ∀ level, HostOp.resetLine level ∉ (running 0 2 [.wait]).hostQueue :=
  ⟨running_control 0 2 [.wait], rfl, rfl, fun level => by cases level <;> decide⟩

/-- One step that is no completion: a CMD write while the command runs. -/
theorem witness_InputsFrozenWhileRunning :
    ControlInv (running 1 2 [.write .w32 4 0]) ∧ (running 1 2 [.write .w32 4 0]).phase = .running
      ∧ (running 1 2 [.write .w32 4 0]).resetLine = false
      ∧ (∀ level, HostOp.resetLine level ∉ (running 1 2 [.write .w32 4 0]).hostQueue)
      ∧ (∀ m, m < 1 → ∃ x, runSteps m (running 1 2 [.write .w32 4 0]) = some x ∧ x.completionDue = false)
      ∧ ∃ u, runSteps 1 (running 1 2 [.write .w32 4 0]) = some u :=
  ⟨running_control _ _ _, rfl, rfl, fun level => by cases level <;> decide,
    fun m hm => ⟨running 1 2 [.write .w32 4 0], by rw [show m = 0 by omega]; rfl, by decide⟩, ⟨_, rfl⟩⟩

/-- A WAIT while a command runs, and one while the block is idle. -/
theorem witness_WaitEnds :
    (ControlInv (running 0 0 [.wait]) ∧ (running 0 0 [.wait]).phase = .running ∧ (running 0 0 [.wait]).resetLine = false
      ∧ (running 0 0 [.wait]).hostQueue = .wait :: [])
    ∧ ControlInv { State.reset with hostQueue := [.wait] } ∧ State.reset.phase = .idle ∧ State.reset.resetLine = false :=
  ⟨⟨running_control 0 0 [.wait], rfl, rfl, rfl⟩, ⟨⟨fun h => absurd h (by decide), fun h => absurd h (by decide)⟩, rfl,
    fun h => absurd h (by decide), by decide, by decide, by decide⟩, rfl, rfl⟩

/-- A reset while a command runs, and the deassertion of a reset. -/
theorem witness_ResetAbandonsCommand :
    (true = true ∨ (running 4 3 []).resetLine = true)
      ∧ (false = true ∨ State.resetLine { State.reset with resetLine := true } = true) := by decide

theorem witness_AcceptanceExact :
    State.reset.resetLine = false ∧ State.reset.status.busy = false ∧ State.reset.offsetOf 0x004 = 0x004 := by decide

/-- The 32-bit CMD write; and for the other case a write to a register beside it and a narrow write to CMD itself. -/
theorem witness_BusyIgnoresWrites :
    (running 0 1 []).resetLine = false ∧ (running 0 1 []).status.busy = true ∧ (running 0 1 []).offsetOf 0x004 = 0x004
      ∧ ¬(Width.w32 = .w32 ∧ (running 0 1 []).offsetOf 0x010 = 0x004)
      ∧ ¬(Width.w16 = .w32 ∧ (running 0 1 []).offsetOf 0x004 = 0x004) := by decide

theorem witness_ConfigRegisterWrite :
    (Reg.textLen, (0xFFFF : Word)) ∈ [(Reg.textLen, 0xFFFF), (.eclReq, 0x3), (.pixelWidth, 0xFFFF), (.margin, 0xFF),
      (.darkColor, 0xFFFFFFFF), (.lightColor, 0xFFFFFFFF), (.rsDataLen, 0xFF), (.rsEcLen, 0xFF)]
      ∧ State.reset.resetLine = false ∧ State.reset.status.busy = false := by decide

/-- The CMD write, the first and last bytes that clear SEGV and the first ones past them, and the last word of the register page
and the first byte of RS_BUF. -/
theorem witness_WriteSideEffects :
    State.reset.resetLine = false ∧ State.reset.status.busy = false ∧ State.reset.offsetOf 0x004 = 0x004
      ∧ ¬(Width.w8 = .w32 ∧ State.reset.offsetOf 0x10000 = 0x004) ∧ State.reset.offsetOf 0x10000 = 0x10000
      ∧ State.reset.offsetOf 0x11FFF < 0x10000 + State.reset.cfg.textMax
      ∧ ¬State.reset.offsetOf 0x12000 < 0x10000 + State.reset.cfg.textMax
      ∧ ¬(Width.w32 = .w32 ∧ State.reset.offsetOf 0xFFC = 0x004) ∧ State.reset.offsetOf 0xFFC < 0x1000
      ∧ 0x1000 ≤ State.reset.offsetOf 0x1000 := by decide

/-- A narrow access and a misaligned one, at both ends of the register page. -/
theorem witness_NarrowRegisterAccessIgnored :
    State.reset.resetLine = false ∧ State.reset.offsetOf 0x000 < 0x1000 ∧ Width.w16 ≠ .w32
      ∧ State.reset.offsetOf 0xFFF < 0x1000 ∧ State.reset.offsetOf 0xFFF % 4 ≠ 0 := by decide

theorem witness_ReadOnlyWritesIgnored :
    windowOf State.reset.cfg (State.reset.offsetOf 0x20000) = some .segTable
      ∧ windowOf State.reset.cfg (State.reset.offsetOf 0x57A60) = some .matrixBuf
      ∧ (Reg.penalty 7).isResult = true ∧ State.reset.offsetOf 0x09C = (Reg.penalty 7).offset
      ∧ State.reset.offsetOf 0x000 = Reg.id.offset := by decide

/-- The ends of each gap of the register page, and the bytes next to a window. -/
theorem witness_UnmappedAccess :
    State.reset.resetLine = false ∧ 0x030 ≤ State.reset.offsetOf 0x030 ∧ State.reset.offsetOf 0x03C < 0x040
      ∧ 0x078 ≤ State.reset.offsetOf 0x078 ∧ State.reset.offsetOf 0x07C < 0x080
      ∧ 0x0A0 ≤ State.reset.offsetOf 0x0A0 ∧ State.reset.offsetOf 0xFFC < 0x1000
      ∧ 0x1000 ≤ State.reset.offsetOf 0x1100 ∧ Config.wellFormed {} = true
      ∧ (∀ i, i < Width.w32.bytes → windowOf State.reset.cfg (State.reset.offsetOf 0x1100 + i) = none)
      ∧ ∀ i, i < Width.w32.bytes → windowOf State.reset.cfg (State.reset.offsetOf 0xFFFFFFFC + i) = none := by decide

/-- The last words of RS_BUF and of TEXT_BUF, read whole and by their upper halves. -/
theorem witness_BufferWriteReadBack :
    State.reset.cfg.wellFormed = true ∧ State.reset.resetLine = false ∧ State.reset.status.busy = false
      ∧ State.reset.offsetOf 0x10FC % Width.w32.bytes = 0
      ∧ 0x1000 ≤ State.reset.offsetOf 0x10FC ∧ State.reset.offsetOf 0x10FC + Width.w32.bytes ≤ 0x1100
      ∧ State.reset.offsetOf 0x11FFC % Width.w32.bytes = 0 ∧ 0x10000 ≤ State.reset.offsetOf 0x11FFC
      ∧ State.reset.offsetOf 0x11FFC + Width.w32.bytes ≤ 0x10000 + State.reset.cfg.textMax
      ∧ 0 % Width.w32.bytes = 0 ∧ 0 + Width.w32.bytes ≤ Width.w32.bytes
      ∧ 2 % Width.w16.bytes = 0 ∧ 2 + Width.w16.bytes ≤ Width.w32.bytes := by decide

/-- An idle block with every validity bit set and the last bytes of each defined length written. -/
def readable : State :=
  { (((((((State.reset.writeBytes 0x11FFC [1, 2, 3, 4]).writeBytes 0x10FC [5, 6, 7, 8]).writeBytes 0x2000C [33, 0, 0, 0]).writeBytes
        0x40B88 [1, 2, 3, 4]).writeBytes 0x41E78 [5, 6]).writeBytes 0x57A60 [3]).writeBytes 0x100000C [0xFF, 0, 0, 0]) with
    status := { segv := true, symv := true, pixv := true }, segCount := 1
    build := { side := 177, dataCw := 2956, totalCw := 3706 }, raster := { modulePx := 1, outDim := 2 } }

/-- For the idle block, one access at the end of each of the seven windows' defined lengths. -/
theorem witness_HostReadValues_idle :
    readable.cfg.wellFormed = true ∧ readable.resetLine = false ∧ readable.status.busy = false
      ∧ ∀ w off, (w, off) ∈ [(Width.w32, 0x11FFC), (.w32, 0x10FC), (.w32, 0x2000C), (.w32, 0x40B88), (.w16, 0x41E78),
          (.w8, 0x57A60), (.w32, 0x100000C)] →
        off % w.bytes = 0
          ∧ ∀ i, i < w.bytes → readable.HostReadable (off + i) ∧ (Memory.get? readable.mem (off + i)).isSome = true := by
  refine ⟨by decide, rfl, rfl, fun w off h => ?_⟩
  simp only [List.mem_cons, Prod.mk.injEq, List.not_mem_nil, or_false] at h
  obtain ⟨rfl, rfl⟩ | ⟨rfl, rfl⟩ | ⟨rfl, rfl⟩ | ⟨rfl, rfl⟩ | ⟨rfl, rfl⟩ | ⟨rfl, rfl⟩ | ⟨rfl, rfl⟩ := h
  · have hw : ∀ i, i < 4 → 0x10000 ≤ 0x11FFC + i ∧ 0x11FFC + i < 0x10000 + readable.cfg.textMax := by decide
    exact ⟨rfl, fun i hi => ⟨.inl (hw i hi), (by decide : ∀ i, i < 4 → (Memory.get? readable.mem (0x11FFC + i)).isSome = true) i hi⟩⟩
  · have hw : ∀ i, i < 4 → 0x1000 ≤ 0x10FC + i ∧ 0x10FC + i < 0x1100
        ∧ ¬(readable.status.busy = true ∧ decode readable.latchedOp = .ok .rsEncode) := by decide
    exact ⟨rfl, fun i hi => ⟨.inr (.inl (hw i hi)),
      (by decide : ∀ i, i < 4 → (Memory.get? readable.mem (0x10FC + i)).isSome = true) i hi⟩⟩
  · have hw : ∀ i, i < 4 → readable.status.busy = false ∧ readable.status.segv = true ∧ 0x20000 ≤ 0x2000C + i
        ∧ 0x2000C + i < 0x20000 + 16 * readable.segCount.toNat ∧ 0x2000C + i < 0x20000 + 16 * readable.cfg.segMax := by decide
    exact ⟨rfl, fun i hi => ⟨.inr (.inr (.inl (hw i hi))),
      (by decide : ∀ i, i < 4 → (Memory.get? readable.mem (0x2000C + i)).isSome = true) i hi⟩⟩
  · have hw : ∀ i, i < 4 → 0x40000 ≤ 0x40B88 + i ∧ 0x40B88 + i < 0x40000 + readable.build.dataCw.toNat
        ∧ 0x40B88 + i < 0x40B8C := by decide
    exact ⟨rfl, fun i hi => ⟨.inr (.inr (.inr (.inl ⟨rfl, rfl, .inl (hw i hi)⟩))),
      (by decide : ∀ i, i < 4 → (Memory.get? readable.mem (0x40B88 + i)).isSome = true) i hi⟩⟩
  · have hw : ∀ i, i < 2 → 0x41000 ≤ 0x41E78 + i ∧ 0x41E78 + i < 0x41000 + readable.build.totalCw.toNat
        ∧ 0x41E78 + i < 0x41E7A := by decide
    exact ⟨rfl, fun i hi => ⟨.inr (.inr (.inr (.inl ⟨rfl, rfl, .inr (.inl (hw i hi))⟩))),
      (by decide : ∀ i, i < 2 → (Memory.get? readable.mem (0x41E78 + i)).isSome = true) i hi⟩⟩
  · have hw : ∀ i, i < 1 → 176 < readable.build.side.toNat ∧ 0x57A60 + i = 0x50000 + 177 * 176 + 176 := by decide
    exact ⟨rfl, fun i hi => ⟨.inr (.inr (.inr (.inl ⟨rfl, rfl, .inr (.inr
        ⟨176, 176, (hw i hi).1, (hw i hi).1, by decide, by decide, (hw i hi).2⟩)⟩))),
      (by decide : ∀ i, i < 1 → (Memory.get? readable.mem (0x57A60 + i)).isSome = true) i hi⟩⟩
  · have hw : ∀ i, i < 4 → 0x1000000 ≤ 0x100000C + i
        ∧ 0x100000C + i < 0x1000000 + 4 * (readable.raster.outDim.toNat * readable.raster.outDim.toNat)
        ∧ 0x100000C + i < 0x1000000 + 4 * readable.cfg.pixMax := by decide
    exact ⟨rfl, fun i hi => ⟨.inr (.inr (.inr (.inr ⟨rfl, rfl, hw i hi⟩))),
      (by decide : ∀ i, i < 4 → (Memory.get? readable.mem (0x100000C + i)).isSome = true) i hi⟩⟩

/-- A running NOP, with the last bytes of TEXT_BUF and of RS_BUF written. -/
theorem witness_HostReadValues_busy :
    let s := ((running 0 1 []).writeBytes 0x11FFF [0x61]).writeBytes 0x10FF [0x62]
    s.cfg.wellFormed = true ∧ ControlInv s ∧ s.resetLine = false ∧ s.status.busy = true
      ∧ s.HostReadable 0x11FFF ∧ Memory.get? s.mem 0x11FFF = some 0x61
      ∧ s.HostReadable 0x10FF ∧ Memory.get? s.mem 0x10FF = some 0x62 :=
  ⟨by decide, ⟨⟨fun _ => rfl, fun _ => rfl⟩, rfl, fun h => absurd h (by decide), by decide, by decide, by decide⟩,
    rfl, rfl, .inl (by decide), by decide, .inr (.inl (by decide)), by decide⟩

/-- A text of one byte, and one of TEXT_MAX bytes. -/
theorem witness_SegmentCompletes :
    (withText [0x61]).cfg.wellFormed = true ∧ 1 ≤ (withText [0x61]).textLen
      ∧ (withText [0x61]).textLen ≤ (withText [0x61]).cfg.textMax
      ∧ State.textLen { State.reset with conf := { State.reset.conf with textLen := 8192 } } ≤ State.reset.cfg.textMax := by
  decide

theorem witness_SegmentRejects :
    State.reset.textLen = 0
      ∧ State.reset.cfg.textMax < State.textLen { State.reset with conf := { State.reset.conf with textLen := 8193 } } := by
  decide

theorem witness_BuildCompletes :
    withTable.status.segv = true ∧ withTable.segments = some [{ mode := .byte, start := 0, count := 1 }]
      ∧ selectVersion ([({ mode := .byte, start := 0, count := 1 } : Segment)].map withTable.segData) withTable.level
          = some 1 := by decide +kernel

theorem witness_BuildRejects : State.reset.status.segv = false := rfl

/-- A table whose one segment is longer than any symbol holds: 65535 bytes. -/
theorem witness_BuildTooLong :
    let s := { (withText []).writeBytes 0x20000 (segEntryBytes { mode := .byte, start := 0, count := 65535 }) with
      segCount := 1, status := { segv := true } }
    s.status.segv = true ∧ s.segments = some [{ mode := .byte, start := 0, count := 65535 }]
      ∧ ∀ v, 1 ≤ v → v ≤ 40 →
          (∃ x ∈ [({ mode := .byte, start := 0, count := 65535 } : Segment)].map s.segData, 2 ^ ccBits x.mode v ≤ x.count)
          ∨ dataCw v s.level
              < requiredBytes ([({ mode := .byte, start := 0, count := 65535 } : Segment)].map s.segData) v := by
  refine ⟨rfl, by decide +kernel, fun v h1 h2 => .inr ?_⟩
  have hd : ∀ u : Fin 41, dataCw u.val .m ≤ 2956 := by decide +kernel
  have hv := hd ⟨v, by omega⟩
  refine Nat.lt_of_le_of_lt hv ?_
  simp only [List.map_cons, List.map_nil, requiredBytes, requiredBits, List.sum_cons, List.sum_nil, segBits, State.segData,
    SegData.count, State.textBytes, State.readBytes, List.length_map, List.length_range, dataBits]
  omega

/-- W = 1 and W = 65535 (with a small image limit the second would not fit; W = 2048 does). -/
theorem witness_RasterCompletes :
    (withDot 1 0).status.symv = true ∧ (withDot 1 0).rasterW ≠ 0
      ∧ outDim (withDot 1 0).rasterW (withDot 1 0).rasterN (withDot 1 0).rasterM
          * outDim (withDot 1 0).rasterW (withDot 1 0).rasterN (withDot 1 0).rasterM ≤ (withDot 1 0).cfg.pixMax
      ∧ outDim (withDot 2048 0).rasterW (withDot 2048 0).rasterN (withDot 2048 0).rasterM
          * outDim (withDot 2048 0).rasterW (withDot 2048 0).rasterN (withDot 2048 0).rasterM
          ≤ (withDot 2048 0).cfg.pixMax := by decide

/-- N = 21, both where W >= T and where W < T. -/
theorem witness_RasterGeometry :
    let s := fun w => { withDot w 4 with build := { State.reset.build with side := 21 } }
    (s 29).status.symv = true ∧ (s 29).rasterW ≠ 0 ∧ 21 ≤ (s 29).rasterN
      ∧ (s 29).rasterN + 2 * (s 29).rasterM ≤ (s 29).rasterW
      ∧ (s 28).rasterW < (s 28).rasterN + 2 * (s 28).rasterM := by decide

theorem witness_RasterRejects :
    State.reset.status.symv = false ∧ (withDot 0 4).rasterW = 0 ∧ (withDot 2049 0).status.symv = true
      ∧ (withDot 2049 0).rasterW ≠ 0
      ∧ (withDot 2049 0).cfg.pixMax < outDim (withDot 2049 0).rasterW (withDot 2049 0).rasterN (withDot 2049 0).rasterM
          * outDim (withDot 2049 0).rasterW (withDot 2049 0).rasterN (withDot 2049 0).rasterM := by decide

/-- K + E = 255 with E = RS_MAX_EC (V-RSC-3). -/
theorem witness_RsEncodeCompletes :
    (withBlock [] 225 30).rsK ≠ 0 ∧ (withBlock [] 225 30).rsE ≠ 0
      ∧ (withBlock [] 225 30).rsE ≤ (withBlock [] 225 30).cfg.rsMaxEc
      ∧ (withBlock [] 225 30).rsK + (withBlock [] 225 30).rsE ≤ 255 := by decide

/-- V-RSC-4 to V-RSC-7, one clause each. -/
theorem witness_RsEncodeRejects :
    (withBlock [] 0 10).rsK = 0 ∧ (withBlock [] 10 0).rsE = 0
      ∧ (withBlock [] 10 31).cfg.rsMaxEc < (withBlock [] 10 31).rsE
      ∧ 255 < (withBlock [] 226 30).rsK + (withBlock [] 226 30).rsE := by decide

/-- "HELLO" at M with the default width and margin. -/
theorem witness_GenerateCompletes :
    let s := withText hello
    s.cfg.wellFormed = true ∧ 1 ≤ s.textLen ∧ s.textLen ≤ s.cfg.textMax
      ∧ selectVersion ((segmentText (s.textBytes 0 s.textLen)).map s.segData) s.level = some 1 ∧ s.rasterW ≠ 0
      ∧ outDim s.rasterW (sideOf 1) s.rasterM * outDim s.rasterW (sideOf 1) s.rasterM ≤ s.cfg.pixMax := by decide +kernel

/-- A text of bytes of class B is one BYTE segment (40_segmenter R123). -/
theorem segmentLoop_bytes (b : Byte) (h : classOf b = .b) (n i k : Nat) :
    segmentLoop { mode := .byte, start := 0, count := k } i (List.replicate n b)
      = [{ mode := .byte, start := 0, count := k + n }] := by
  induction n generalizing i k with
  | zero => rfl
  | succ n ih => simp [List.replicate_succ, segmentLoop, h, joinMode, ih, Nat.add_comm, Nat.add_left_comm]

/-- 1274 bytes "a" at level H: one byte more than version 40 holds (4 + 16 + 8*1274 + 4 bits are 1277 bytes, DATA(40, H) = 1276). -/
def tooLong : State :=
  let s := withText (List.replicate 1274 0x61)
  { s with conf := { s.conf with eclReq := 3 } }

/-- What the commands read of a text is that text, whatever the configuration. -/
theorem withText_textBytes (bytes : List Byte) (c : ConfRegs) :
    State.textBytes { withText bytes with conf := c } 0 bytes.length = bytes :=
  (State.readBytes_congr fun _ _ => State.byteAt_congr rfl rfl _).trans (State.readBytes_writeBytes State.reset 0x10000 bytes)

/-- SEGMENT of that text succeeds, and the BUILD after it fails. -/
theorem tooLong_stages :
    ∃ s1 s2, exec .segment tooLong = .next s1 ∧ s1.errcode = .none ∧ exec .build s1 = .next s2 ∧ s2.errcode = .dataTooLong := by
  have hl : (List.replicate 1274 (0x61 : Byte)).length = 1274 := List.length_replicate
  have hn : tooLong.textLen = 1274 := (congrArg (fun n => (BitVec.ofNat 16 n).toNat) hl).trans (by decide)
  have ht : tooLong.textBytes 0 1274 = List.replicate 1274 0x61 := by
    have h := withText_textBytes (List.replicate 1274 0x61) tooLong.conf
    rw [hl] at h
    exact h
  have hs : segmentText (tooLong.textBytes 0 tooLong.textLen) = [{ mode := .byte, start := 0, count := 1274 }] := by
    rw [hn, ht]
    exact segmentLoop_bytes 0x61 (by decide) 1273 1 1
  have hm : tooLong.cfg.textMax = 8192 := rfl
  obtain ⟨h, -⟩ | ⟨-, -, h⟩ := segmentStage_cases tooLong
  · omega
  · rw [hs] at h
    refine ⟨(Stage.ok (tooLong.segmentStart.writeSegments [{ mode := .byte, start := 0, count := 1274 }])).finish, _,
      ?_, rfl, rfl, by decide +kernel⟩
    show Host.Outcome.next (segmentStage tooLong).finish = _
    rw [h]

/-- A SEGMENT that fails; one that succeeds, with a BUILD after it that succeeds, and one with a BUILD that fails. -/
theorem witness_GenerateIsThreeCommands :
    (∃ s1, exec .segment State.reset = .next s1 ∧ s1.errcode ≠ .none)
      ∧ (∃ s1 s2, exec .segment (withText [0x61]) = .next s1 ∧ s1.errcode = .none ∧ exec .build s1 = .next s2)
      ∧ ∃ s1 s2, exec .segment tooLong = .next s1 ∧ s1.errcode = .none ∧ exec .build s1 = .next s2 ∧ s2.errcode ≠ .none :=
  ⟨⟨_, rfl, by decide⟩, ⟨_, _, rfl, by decide, rfl⟩, by
    obtain ⟨s1, s2, h1, h2, h3, h4⟩ := tooLong_stages
    exact ⟨s1, s2, h1, h2, h3, by simp [h4]⟩⟩

/-- Two blocks with the same one-byte text and configuration that differ in the next byte of TEXT_BUF, in CMD and in the old
results. -/
theorem witness_GenerateDeterministic :
    let s1 := withText [0x61]
    let s2 := { (withText [0x61]).writeBytes 0x10001 [0x62] with cmd := 2, segCount := 9, build := { version := 3 } }
    s1.cfg.wellFormed = true ∧ s2.cfg = s1.cfg ∧ s2.conf = s1.conf
      ∧ (∀ k, k < s1.textLen → s2.byteAt (0x10000 + k) = s1.byteAt (0x10000 + k)) ∧ s1.textLen = 1
      ∧ (∃ t1, exec .generate s1 = .next t1) ∧ (∃ t2, exec .generate s2 = .next t2) ∧ s2.mem ≠ s1.mem :=
  ⟨by decide, rfl, rfl, by decide, rfl, ⟨_, rfl⟩, ⟨_, rfl⟩, by decide⟩

theorem witness_FailedCommandFailsAgain :
    State.reset.cfg.wellFormed = true ∧ ∃ t, exec .segment State.reset = .next t ∧ t.errcode ≠ .none :=
  ⟨by decide, _, rfl, by decide⟩

theorem witness_EngineWritesNoInput :
    (withBlock [0x01] 1 2).cfg.wellFormed = true ∧ (∃ t, exec .rsEncode (withBlock [0x01] 1 2) = .next t)
      ∧ ∃ t, exec .segment (withText [0x61]) = .next t := ⟨by decide, ⟨_, rfl⟩, ⟨_, rfl⟩⟩

theorem witness_SegmentationTiles :
    ([0x31, 0x61] : List Byte) ≠ [] ∧ (segmentText [0x31, 0x61])[1]? = some ⟨.byte, 1, 1⟩ := by decide

theorem witness_SegmentationAlphabets :
    (segmentText [0x31, 0x61])[0]? = some ⟨.num, 0, 1⟩ ∧ (segmentText [0x31, 0x61])[0 + 1]? = some ⟨.byte, 1, 1⟩ := by decide

theorem witness_SelectVersionSmallest :
    selectVersion [⟨.byte, [0x61]⟩] .h = some 1
      ∧ selectVersion [⟨.num, List.replicate 17 0x30⟩] .h = some 2 := by decide +kernel

/-- The data fills the capacity exactly, and leaves room for pad codewords (V-BIT-8, V-BIT-5). -/
theorem witness_DataCodewordsFill :
    requiredBytes [⟨.byte, List.replicate 14 0x61⟩] 1 = dataCw 1 .m ∧ requiredBytes [⟨.byte, [0x61]⟩] 1 ≤ dataCw 1 .h
      ∧ requiredBytes [⟨.byte, [0x61]⟩] 1 + 5 < dataCw 1 .h := by decide +kernel

theorem witness_CapacityTables : 1 ≤ 40 ∧ 40 ≤ 40 := by decide

theorem witness_FinalCodewordsLength :
    (List.replicate 16 (0 : Byte)).length = dataCw 1 .m ∧ numBlocks 1 .m = 1
      ∧ (List.replicate 1276 (0 : Byte)).length = dataCw 40 .h := by decide +kernel

theorem witness_TablesMultiply : (0xFF : Byte) ≠ 0 ∧ 254 < 255 := by decide

theorem witness_CodewordVanishesAtRoots : 255 ≤ 255 ∧ 254 < 255 ∧ 0 < 1 := by decide

/-- The first and the last version. -/
theorem witness_placement : (1 ≤ 1 ∧ 1 ≤ 40) ∧ 1 ≤ 40 ∧ 40 ≤ 40 := by decide

/-- The hypotheses of PlacedBits and of CandidateFormatBits. -/
theorem witness_PlacedBits_CandidateFormatBits :
    (1 ≤ 1 ∧ 1 ≤ 40 ∧ 7 < 8) ∧ ∃ m, place (List.replicate 26 0xA5) 1 (layout 1) = some m :=
  ⟨by decide, Laws.place_isSome _ 1 _ (by decide) (by decide) (by decide)⟩

/-- A 2 x 2 matrix with one function module. -/
theorem witness_MaskFlipsDataModules_PenaltyBlocksAndRatio_PenaltyOfLines :
    let g : Grid := { side := 2, dark := #[true, false, false, true], func := #[true, false, false, false] }
    g.dark.size = g.side * g.side ∧ g.func.size = g.side * g.side ∧ 0 < g.side ∧ 1 < g.side
      ∧ g.funcAt 0 0 = true ∧ g.funcAt 1 1 = false := by decide

/-- A tie of scores. -/
theorem witness_BestMaskMinimal : [3, 2, 5, 2, 9, 9, 9, 2].length = 8 ∧ bestMask [3, 2, 5, 2, 9, 9, 9, 2] = 1 := by decide

/-- Reset meets every invariant's hypotheses, and steps. -/
theorem witness_StepKeepsInvariants :
    State.reset.cfg.wellFormed = true ∧ ControlInv State.reset ∧ Memory.wf State.reset.mem = true
      ∧ (∀ off b, Memory.get? State.reset.mem off = some b → windowOf State.reset.cfg off ≠ none)
      ∧ State.reset.status = {} ∧ step State.reset = .next State.reset :=
  ⟨by decide, ⟨⟨fun h => absurd h (by decide), fun h => absurd h (by decide)⟩, rfl, fun h => absurd h (by decide),
    by decide, by decide, by decide⟩, by decide, fun _ _ h => absurd h (by simp [State.reset, State.afterReset, Memory.get?]), rfl, rfl⟩

/-- A block without a symbol. -/
theorem witness_StepKeepsSymbol :
    withTable.cfg.wellFormed = true ∧ SymbolInv withTable ∧ ∃ t, step withTable = .next t :=
  ⟨by decide, fun h => absurd h (by decide), _, rfl⟩

/-- A block with PIXV = 1: the 1 x 1 symbol, dark, with W = 2 and M = 0, and its image of 2 x 2 dark pixels. -/
theorem witness_StepKeepsImage :
    let s := { (withDot 2 0).writeBytes 0x1000000 ((List.replicate 4 [0xFF, 0x00, 0x00, 0x00]).flatten) with
      raster := { modulePx := 2, outDim := 2 }, status := { symv := true, pixv := true } }
    s.cfg.wellFormed = true ∧ s.status.pixv = true ∧ ImageInv s ∧ ∃ t, step s = .next t :=
  ⟨by decide, rfl, fun _ => ⟨rfl, 2, 0, 0x000000FF, 0xFFFFFFFF, by decide, by decide, by decide, by decide +kernel,
    by decide +kernel, by decide +kernel, State.listed_writeBytes (withDot 2 0) 0x1000000
      (List.replicate 4 [0xFF, 0x00, 0x00, 0x00]).flatten, by decide +kernel⟩, _, rfl⟩

/-- A block with SEGV = 1 and an honest table. -/
theorem witness_StepKeepsSegmentTable_NoInternalEncodingError :
    withTable.cfg.wellFormed = true ∧ withTable.status.segv = true ∧ SegmentTableInv withTable
      ∧ (∃ t, step withTable = .next t) ∧ ∃ t, exec .build withTable = .next t := by
  have hs : segmentText (withTable.textBytes 0 withTable.textLen) = [{ mode := .byte, start := 0, count := 1 }] := by
    decide +kernel
  refine ⟨by decide, rfl, fun _ => ⟨by decide, by decide, ⟨rfl, by rw [hs]; rfl, fun i x hx => ?_,
    State.listed_writeBytes (withText [0x61]) 0x20000 (segEntryBytes { mode := .byte, start := 0, count := 1 })⟩, by rw [hs]; decide +kernel⟩, ⟨_, rfl⟩, ⟨_, rfl⟩⟩
  rw [hs] at hx
  cases i with
  | zero =>
    obtain rfl : ({ mode := .byte, start := 0, count := 1 } : Segment) = x := by simpa using hx
    decide +kernel
  | succ i => simp at hx

end Sys2Proof.Tests
end

section
/-! ## What one step can do

Each command's body as one function, what it leaves unchanged, and one inversion of the step: every invariant below is a
case analysis over `StepEffect`. -/

namespace Sys2Proof.Machine

/-! ### A stage's state and code -/

/-- The state a stage leaves, however it ends. -/
def Stage.state : Stage → State
  | .ok s => s
  | .raised _ s => s

/-- The code a stage ends with: none at its end, else the one it raised. -/
def Stage.code : Stage → ErrCode
  | .ok _ => .none
  | .raised e _ => e

@[simp] theorem Stage.state_ok (s : State) : (Stage.ok s).state = s := rfl
@[simp] theorem Stage.state_raised (e : ErrCode) (s : State) : (Stage.raised e s).state = s := rfl
@[simp] theorem Stage.code_ok (s : State) : (Stage.ok s).code = .none := rfl
@[simp] theorem Stage.code_raised (e : ErrCode) (s : State) : (Stage.raised e s).code = e := rfl

/-- The completion is that of the stage's state, with the stage's code (70_reset R337). -/
theorem Stage.finish_eq (x : Stage) : x.finish = x.state.complete x.code := by cases x <;> rfl

/-- The body of each command (70_reset R337). -/
def commandStage : Instr → State → Stage
  | .nop => .ok
  | .segment => segmentStage
  | .build => buildStage
  | .raster => rasterStage
  | .generate => generateStage
  | .rsEncode => rsEncodeStage

/-- Every command completes with its body's state and code. -/
theorem exec_eq (i : Instr) (s : State) :
    exec i s = .next ((commandStage i s).state.complete (commandStage i s).code) := by
  rw [← Stage.finish_eq]
  cases i <;> rfl

/-- A property that the first stage's state has, and the second stage keeps, holds of the sequence's state. -/
theorem Stage.andThen_state {x : Stage} {f : State → Stage} {P : State → Prop} (hx : P x.state)
    (hf : ∀ s, P s → P (f s).state) : P (x.andThen f).state := by
  cases x with
  | ok s => exact hf s hx
  | raised e s => exact hx

/-- A code that neither stage ends with, their sequence does not end with. -/
theorem Stage.andThen_code_ne {x : Stage} {f : State → Stage} {e : ErrCode} (hx : x.code ≠ e)
    (hf : ∀ s, (f s).code ≠ e) : (x.andThen f).code ≠ e := by
  cases x with
  | ok s => exact hf s
  | raised e s => exact hx

/-- What holds of the state GENERATE starts from, and through its three stages, holds of the state it leaves
(46_control R291). -/
theorem generateStage_state {s : State} {P : State → Prop} (h : P s) (hs : ∀ t, P t → P (segmentStage t).state)
    (hb : ∀ t, P t → P (buildStage t).state) (hr : ∀ t, P t → P (rasterStage t).state) : P (generateStage s).state :=
  Stage.andThen_state (Stage.andThen_state (hs s h) hb) hr

/-! ### What a command's body leaves unchanged -/

/-- What no command's body changes: the parameters, CMD and LATCHED_OP, the configuration registers, OVR, what stands
outside the block, and the reset epoch (10_state R20). -/
structure CommandFrame (s t : State) : Prop where
  cfg : t.cfg = s.cfg
  cmd : t.cmd = s.cmd
  latchedOp : t.latchedOp = s.latchedOp
  conf : t.conf = s.conf
  ovr : t.status.ovr = s.status.ovr
  resetLine : t.resetLine = s.resetLine
  hostQueue : t.hostQueue = s.hostQueue
  hostReads : t.hostReads = s.hostReads
  epoch : t.epoch = s.epoch

theorem CommandFrame.refl (s : State) : CommandFrame s s := ⟨rfl, rfl, rfl, rfl, rfl, rfl, rfl, rfl, rfl⟩

theorem CommandFrame.trans {s t u : State} (h : CommandFrame s t) (g : CommandFrame t u) : CommandFrame s u :=
  ⟨g.cfg.trans h.cfg, g.cmd.trans h.cmd, g.latchedOp.trans h.latchedOp, g.conf.trans h.conf, g.ovr.trans h.ovr,
    g.resetLine.trans h.resetLine, g.hostQueue.trans h.hostQueue, g.hostReads.trans h.hostReads, g.epoch.trans h.epoch⟩

theorem segmentStage_frame (s : State) : CommandFrame s (segmentStage s).state := by
  obtain ⟨-, h⟩ | ⟨-, -, h⟩ := segmentStage_cases s <;> rw [h] <;> constructor <;> simp

theorem buildSegments_frame (s : State) (ss : List SegData) (lv : Level) :
    CommandFrame s (buildSegments s ss lv).state := by
  obtain ⟨-, h⟩ | ⟨v, -, -, h⟩ | ⟨v, y, -, -, h⟩ := buildSegments_cases s ss lv <;> rw [h] <;> constructor <;> simp

theorem State.buildStart_frame (s : State) : CommandFrame s s.buildStart := by constructor <;> simp

theorem buildStage_frame (s : State) : CommandFrame s (buildStage s).state := by
  obtain ⟨-, h⟩ | ⟨-, -, h⟩ | ⟨segs, -, -, h⟩ := buildStage_cases s <;> rw [h]
  · exact s.buildStart_frame
  · constructor <;> simp
  · exact s.buildStart_frame.trans (buildSegments_frame _ _ _)

theorem rasterStage_frame (s : State) : CommandFrame s (rasterStage s).state := by
  obtain ⟨-, h⟩ | ⟨-, -, -, h⟩ | ⟨-, -, -, h⟩ := rasterStage_cases s <;> rw [h] <;> constructor <;> simp

theorem rsEncodeStage_frame (s : State) : CommandFrame s (rsEncodeStage s).state := by
  obtain ⟨-, h⟩ | ⟨-, h⟩ := rsEncodeStage_cases s <;> rw [h] <;> constructor <;> simp

theorem commandStage_frame (i : Instr) (s : State) : CommandFrame s (commandStage i s).state := by
  cases i with
  | nop => exact .refl s
  | segment => exact segmentStage_frame s
  | build => exact buildStage_frame s
  | raster => exact rasterStage_frame s
  | generate =>
    exact generateStage_state (.refl s) (fun t h => h.trans (segmentStage_frame t))
      (fun t h => h.trans (buildStage_frame t)) fun t h => h.trans (rasterStage_frame t)
  | rsEncode => exact rsEncodeStage_frame s

/-! ### The codes a command reports -/

theorem segmentStage_code (s : State) : (segmentStage s).code ≠ .illegalCommand := by
  obtain ⟨-, h⟩ | ⟨-, -, h⟩ := segmentStage_cases s <;> simp [h]

theorem buildStage_code (s : State) : (buildStage s).code ≠ .illegalCommand := by
  obtain ⟨-, h⟩ | ⟨-, -, h⟩ | ⟨segs, -, -, h⟩ := buildStage_cases s
  · simp [h]
  · simp [h]
  · rw [h]
    obtain ⟨-, h⟩ | ⟨v, -, -, h⟩ | ⟨v, y, -, -, h⟩ := buildSegments_cases s.buildStart (segs.map s.segData) s.level <;>
      simp [h]

theorem rasterStage_code (s : State) : (rasterStage s).code ≠ .illegalCommand := by
  obtain ⟨-, h⟩ | ⟨-, -, -, h⟩ | ⟨-, -, -, h⟩ := rasterStage_cases s <;> simp [h]

theorem rsEncodeStage_code (s : State) : (rsEncodeStage s).code ≠ .illegalCommand := by
  obtain ⟨-, h⟩ | ⟨-, h⟩ := rsEncodeStage_cases s <;> simp [h]

/-- No command reports ILLEGAL_COMMAND (60_exceptions R304). -/
theorem commandStage_code (i : Instr) (s : State) : (commandStage i s).code ≠ .illegalCommand := by
  cases i with
  | nop => simp [commandStage]
  | segment => exact segmentStage_code s
  | build => exact buildStage_code s
  | raster => exact rasterStage_code s
  | generate => exact Stage.andThen_code_ne (Stage.andThen_code_ne (segmentStage_code s) buildStage_code) rasterStage_code
  | rsEncode => exact rsEncodeStage_code s

/-! ### The step -/

/-- What one input of the host port or the reset line can do to the block. -/
inductive HostEffect (s : State) : State → Prop
  /-- A read, a WAIT poll, an ignored write or a reset line that stays deasserted: the block keeps its state. -/
  | hostSide (queue : List HostOp) (reads : List Word) (drawn : Nat) :
      HostEffect s { s with hostQueue := queue, hostReads := reads, draws := drawn }
  /-- A write to CMD while a command runs (10_state R33). -/
  | overrun : HostEffect s { s with status := { s.status with ovr := true } }
  /-- A command is accepted (70_reset R336). -/
  | accept (w : Word) (h : s.resetLine = false) : HostEffect s (s.accept w)
  /-- A write to a register other than CMD (20_memory R67). -/
  | storeReg (r : Reg) (v : Word) : HostEffect s (s.storeReg r v)
  /-- A run of buffer byte writes (20_memory R67). -/
  | writeBytes (n off : Nat) (val : Nat → Byte) :
      HostEffect s ((List.range n).foldl (fun t i => t.writeBufByte (off + i) (val i)) s)
  /-- The reset line is, or was, asserted (70_reset R330). -/
  | reset (level : Bool) (queue : List HostOp) (reads : List Word) (drawn : Nat) :
      HostEffect s { State.afterReset s.cfg (s.epoch + 1) with
        resetLine := level, hostQueue := queue, hostReads := reads, draws := drawn }

theorem State.hostStep_effect (s : State) (op : HostOp) : HostEffect s (s.hostStep op) := by
  cases op with
  | write w a v =>
    change HostEffect s (s.busWrite w a v)
    obtain h | ⟨-, -, -, -, h⟩ | ⟨hr, -, -, -, h⟩ | ⟨-, -, -, r, -, -, h⟩ | ⟨-, -, -, -, h⟩ := s.busWrite_cases w a v <;>
      rw [h]
    · exact .hostSide s.hostQueue s.hostReads s.draws
    · exact .overrun
    · exact .accept v hr
    · exact .storeReg r v
    · exact .writeBytes _ _ fun i => byteLane v.toNat i
  | read w a => exact .hostSide s.hostQueue (s.busRead w a :: s.hostReads) (s.draws + 1)
  | wait =>
    simp only [State.hostStep]
    split
    · exact .hostSide (.wait :: s.hostQueue) (_ :: s.hostReads) (s.draws + 1)
    · exact .hostSide s.hostQueue (_ :: s.hostReads) (s.draws + 1)
  | resetLine level =>
    simp only [State.hostStep, State.driveReset]
    split
    · exact .reset level s.hostQueue s.hostReads s.draws
    · exact .hostSide s.hostQueue s.hostReads s.draws

/-- What one step can do to the block (70_reset R334). -/
inductive StepEffect (s : State) : State → Prop
  /-- The running command completes (70_reset R337). -/
  | command (i : Instr) : StepEffect s ((commandStage i s).state.complete (commandStage i s).code)
  /-- A word that is no command completes (60_exceptions R304). -/
  | illegal : StepEffect s (s.complete .illegalCommand)
  /-- Nothing is to do (log 6). -/
  | idle : StepEffect s s
  /-- The oldest input is taken. -/
  | input (queue : List HostOp) (delay : Nat) {t : State}
      (h : HostEffect { s with hostQueue := queue, delayLeft := delay } t) : StepEffect s t

/-- Every step answers a next state, which is one of those `StepEffect` lists. -/
theorem step_effect (s : State) : ∃ t, step s = .next t ∧ StepEffect s t := by
  unfold step
  split
  · unfold engineStep
    split
    · exact ⟨_, exec_eq _ s, .command _⟩
    · exact ⟨_, rfl, .illegal⟩
  · split
    · exact ⟨s, rfl, .idle⟩
    · exact ⟨_, rfl, .input _ _ (State.hostStep_effect _ _)⟩

theorem StepEffect.of_step {s t : State} (h : step s = .next t) : StepEffect s t := by
  obtain ⟨u, hu, he⟩ := step_effect s
  obtain rfl : u = t := by simpa [hu] using h
  exact he

/-! ### The control state -/

/-- A completion leaves the control state consistent where LATCHED_OP is the word in CMD (60_exceptions R307, R308). -/
theorem State.complete_control {s : State} (h : s.latchedOp = s.cmd) (e : ErrCode) : ControlInv (s.complete e) where
  busy_iff_running := by simp
  latched_is_cmd := h
  done_not_busy := by simp
  err_iff_code := by simp
  err_done := by simp
  reset_idle := by simp

/-- A register write but to CMD changes the configuration registers and SEGV alone (20_memory R67). -/
theorem State.storeReg_eq (s : State) (r : Reg) (v : Word) :
    s.storeReg r v = { s with conf := (s.storeReg r v).conf
                              status := { s.status with segv := (s.storeReg r v).status.segv } } := by
  cases r <;> rfl

/-- A buffer byte write changes the memory and SEGV alone (20_memory R67). -/
theorem State.writeBufByte_eq (s : State) (off : Nat) (b : Byte) :
    s.writeBufByte off b = { s with mem := (s.writeBufByte off b).mem
                                    status := { s.status with segv := (s.writeBufByte off b).status.segv } } := by
  obtain h | ⟨-, h⟩ | ⟨-, h⟩ := s.writeBufByte_cases off b <;> rw [h] <;> rfl

/-- What every buffer byte write keeps, a run of them keeps. -/
theorem State.foldl_writeBufByte {P : State → Prop} (hw : ∀ s off b, P s → P (s.writeBufByte off b)) {s : State}
    (h : P s) (n off : Nat) (val : Nat → Byte) :
    P ((List.range n).foldl (fun t i => t.writeBufByte (off + i) (val i)) s) := by
  induction n with
  | zero => exact h
  | succ n ih =>
    rw [List.range_succ, List.foldl_append]
    exact hw _ _ _ ih

/-- An input keeps the control state consistent and the parameters as they are. -/
theorem HostEffect.keeps_control {s t : State} (he : HostEffect s t) (h : ControlInv s) : ControlInv t ∧ t.cfg = s.cfg := by
  have ⟨hbusy, hlatched, hdone, hcode, herr, hreset⟩ := h
  cases he with
  | hostSide => exact ⟨⟨hbusy, hlatched, hdone, hcode, herr, hreset⟩, rfl⟩
  | overrun => exact ⟨⟨hbusy, hlatched, hdone, hcode, herr, hreset⟩, rfl⟩
  | accept w hr => exact ⟨⟨by simp, rfl, by simp, by simp, by simp, by simp [hr]⟩, rfl⟩
  | storeReg r v =>
    rw [State.storeReg_eq]
    exact ⟨⟨hbusy, hlatched, hdone, hcode, herr, hreset⟩, rfl⟩
  | writeBytes n off val =>
    refine State.foldl_writeBufByte (P := fun u => ControlInv u ∧ u.cfg = s.cfg) (fun u a b hu => ?_) ⟨h, rfl⟩ n off val
    obtain ⟨⟨hbusy, hlatched, hdone, hcode, herr, hreset⟩, hcfg⟩ := hu
    rw [State.writeBufByte_eq]
    exact ⟨⟨hbusy, hlatched, hdone, hcode, herr, hreset⟩, hcfg⟩
  | reset =>
    exact ⟨⟨by simp [State.afterReset], rfl, fun _ => rfl, by simp [State.afterReset], by simp [State.afterReset],
      fun _ => rfl⟩, rfl⟩

/-- Settles O55: a completion makes the control state consistent from LATCHED_OP = CMD alone, and each input keeps it. -/
theorem stepKeepsControl : Obligations.StepKeepsControl := by
  intro s t h hstep
  cases StepEffect.of_step hstep with
  | command i =>
    obtain ⟨hcfg, hcmd, hlatched, -⟩ := commandStage_frame i s
    exact ⟨State.complete_control (by rw [hlatched, hcmd, h.latched_is_cmd]) _, hcfg⟩
  | illegal => exact ⟨State.complete_control h.latched_is_cmd _, rfl⟩
  | idle => exact ⟨h, rfl⟩
  | input queue delay he =>
    obtain ⟨hbusy, hlatched, hdone, hcode, herr, hreset⟩ := h
    exact he.keeps_control ⟨hbusy, hlatched, hdone, hcode, herr, hreset⟩

/-- Settles O6: each command completes with its body's state and code, and every step has an effect. -/
theorem everyCommandCompletes : Obligations.EveryCommandCompletes := by
  refine ⟨fun i s => ⟨_, exec_eq i s, ⟨rfl, rfl, rfl, rfl, rfl, ?_⟩, commandStage_code i s⟩, fun s => ?_⟩
  · exact (commandStage_frame i s).ovr
  · obtain ⟨t, ht, -⟩ := step_effect s
    exact ⟨t, ht⟩

end Sys2Proof.Machine
end

section
/-! ## Invariants of the data

The registers, validity bits and buffers, without the control bits and the model's counters. What each operation changes of
the buffers is one interval of offsets; an invariant is kept where its own bytes lie outside. -/

namespace Sys2Proof.Machine

/-! ### The same data, and bytes changed in one interval alone -/

/-- The two states hold the same parameters, configuration, results, validity bits and buffers. -/
structure SameData (s t : State) : Prop where
  cfg : t.cfg = s.cfg
  conf : t.conf = s.conf
  segCount : t.segCount = s.segCount
  build : t.build = s.build
  raster : t.raster = s.raster
  mem : t.mem = s.mem
  epoch : t.epoch = s.epoch
  segv : t.status.segv = s.status.segv
  symv : t.status.symv = s.status.symv
  pixv : t.status.pixv = s.status.pixv

theorem State.complete_sameData (s : State) (e : ErrCode) : SameData s (s.complete e) :=
  ⟨rfl, rfl, rfl, rfl, rfl, rfl, rfl, rfl, rfl, rfl⟩

theorem State.accept_sameData (s : State) (w : Word) : SameData s (s.accept w) :=
  ⟨rfl, rfl, rfl, rfl, rfl, rfl, rfl, rfl, rfl, rfl⟩

/-- From s to t no buffer byte changes but those at offsets lo to hi-1. -/
structure WritesOnly (s t : State) (lo hi : Nat) : Prop where
  epoch : t.epoch = s.epoch
  cells : ∀ a, a < lo ∨ hi ≤ a → Memory.get? t.mem a = Memory.get? s.mem a

namespace WritesOnly

variable {s t u : State} {lo hi off len : Nat}

theorem trans (h : WritesOnly s t lo hi) (g : WritesOnly t u lo hi) : WritesOnly s u lo hi :=
  ⟨g.epoch.trans h.epoch, fun a ha => (g.cells a ha).trans (h.cells a ha)⟩

theorem mono (h : WritesOnly s t lo hi) {lo' hi' : Nat} (hlo : lo' ≤ lo) (hhi : hi ≤ hi') : WritesOnly s t lo' hi' :=
  ⟨h.epoch, fun a ha => h.cells a (by omega)⟩

theorem byteAt (h : WritesOnly s t lo hi) {a : Nat} (ha : a < lo ∨ hi ≤ a) : t.byteAt a = s.byteAt a := by
  unfold State.byteAt
  rw [h.cells a ha, h.epoch]

theorem readBytes (h : WritesOnly s t lo hi) (ho : off + len ≤ lo ∨ hi ≤ off) : t.readBytes off len = s.readBytes off len :=
  State.readBytes_congr fun i hi => h.byteAt (by omega)

theorem listed (h : WritesOnly s t lo hi) (ho : off + len ≤ lo ∨ hi ≤ off) (hl : s.Listed off len) : t.Listed off len :=
  fun k hk => by rw [h.cells (off + k) (by omega)]; exact hl k hk

end WritesOnly

/-- A run of bytes changes no byte outside it. -/
theorem State.writeBytes_writesOnly (s : State) (off : Nat) (bytes : List Byte) :
    WritesOnly s (s.writeBytes off bytes) off (off + bytes.length) :=
  ⟨rfl, fun a ha => Memory.get?_write_outside s.mem off bytes a ha⟩

/-! ### The memory invariant -/

/-- The memory is in canonical form, and every listed byte in a buffer window. -/
def MemoryInv (s : State) : Prop := Memory.wf s.mem = true ∧ MemoryInWindows s

/-- An offset is in no window exactly where it lies in none of the seven intervals (20_memory R61, R65). -/
theorem windowOf_ne_none (cfg : Config) (a : Nat) :
    windowOf cfg a ≠ none ↔ ∃ w : Window, w.base ≤ a ∧ a < w.base + w.size cfg := by
  have hall : ∀ w : Window, w ∈ Window.all := by intro w; cases w <;> decide
  simp [windowOf, Window.contains, hall]

/-- The window found holds the offset. -/
theorem windowOf_bounds {cfg : Config} {a : Nat} {w : Window} (h : windowOf cfg a = some w) :
    w.base ≤ a ∧ a < w.base + w.size cfg := by
  simpa [Window.contains] using List.find?_some h

/-- A run of bytes inside a window keeps the memory canonical and inside the windows. -/
theorem MemoryInv.writeBytes {s : State} (h : MemoryInv s) (w : Window) {off : Nat} {bytes : List Byte}
    (hlo : w.base ≤ off) (hhi : off + bytes.length ≤ w.base + w.size s.cfg) : MemoryInv (s.writeBytes off bytes) := by
  obtain ⟨hwf, hwin⟩ := h
  refine ⟨Memory.write_wf _ _ _ hwf, fun a b hb => ?_⟩
  by_cases ha : off ≤ a ∧ a < off + bytes.length
  · exact (windowOf_ne_none s.cfg a).mpr ⟨w, by omega, by omega⟩
  · rw [State.writeBytes_mem, Memory.get?_write_outside _ _ _ _ (by omega)] at hb
    exact hwin a b hb

theorem MemoryInv.congr {s t : State} (h : MemoryInv s) (hc : t.cfg = s.cfg) (hm : t.mem = s.mem) : MemoryInv t := by
  unfold MemoryInv MemoryInWindows at *
  rw [hc, hm]
  exact h

/-! ### The induction over steps -/

/-- A property of the data that reset gives, and every operation keeps where the parameters are well formed. -/
structure DataInvariant (P : State → Prop) : Prop where
  congr : ∀ {s t}, s.cfg.wellFormed = true → P s → SameData s t → P t
  reset : ∀ cfg epoch, P (State.afterReset cfg epoch)
  storeReg : ∀ {s} r v, s.cfg.wellFormed = true → P s → P (s.storeReg r v)
  writeBufByte : ∀ {s} off b, s.cfg.wellFormed = true → P s → P (s.writeBufByte off b)
  segment : ∀ {s}, s.cfg.wellFormed = true → P s → P (segmentStage s).state
  build : ∀ {s}, s.cfg.wellFormed = true → P s → P (buildStage s).state
  raster : ∀ {s}, s.cfg.wellFormed = true → P s → P (rasterStage s).state
  rsEncode : ∀ {s}, s.cfg.wellFormed = true → P s → P (rsEncodeStage s).state

namespace DataInvariant

variable {P : State → Prop} {s t : State}

/-- Every command's body keeps the property. -/
theorem command (H : DataInvariant P) (hc : s.cfg.wellFormed = true) (h : P s) (i : Instr) :
    P (commandStage i s).state := by
  cases i with
  | nop => exact h
  | segment => exact H.segment hc h
  | build => exact H.build hc h
  | raster => exact H.raster hc h
  | generate =>
    refine (generateStage_state (P := fun u => u.cfg.wellFormed = true ∧ P u) ⟨hc, h⟩ ?_ ?_ ?_).2
    · exact fun u hu => ⟨by rw [(segmentStage_frame u).cfg]; exact hu.1, H.segment hu.1 hu.2⟩
    · exact fun u hu => ⟨by rw [(buildStage_frame u).cfg]; exact hu.1, H.build hu.1 hu.2⟩
    · exact fun u hu => ⟨by rw [(rasterStage_frame u).cfg]; exact hu.1, H.raster hu.1 hu.2⟩
  | rsEncode => exact H.rsEncode hc h

/-- Every input keeps the property. -/
theorem input (H : DataInvariant P) (hc : s.cfg.wellFormed = true) (h : P s) (he : HostEffect s t) : P t := by
  cases he with
  | hostSide => exact H.congr hc h ⟨rfl, rfl, rfl, rfl, rfl, rfl, rfl, rfl, rfl, rfl⟩
  | overrun => exact H.congr hc h ⟨rfl, rfl, rfl, rfl, rfl, rfl, rfl, rfl, rfl, rfl⟩
  | accept w => exact H.congr hc h (s.accept_sameData w)
  | storeReg r v => exact H.storeReg r v hc h
  | writeBytes n off val =>
    refine (State.foldl_writeBufByte (P := fun u => u.cfg.wellFormed = true ∧ P u) (fun u a b hu => ?_) ⟨hc, h⟩ n off val).2
    exact ⟨by rw [State.writeBufByte_eq]; exact hu.1, H.writeBufByte a b hu.1 hu.2⟩
  | reset =>
    exact H.congr (s := State.afterReset s.cfg (s.epoch + 1)) hc (H.reset s.cfg (s.epoch + 1))
      ⟨rfl, rfl, rfl, rfl, rfl, rfl, rfl, rfl, rfl, rfl⟩

/-- Every step keeps the property. -/
theorem step (H : DataInvariant P) (hc : s.cfg.wellFormed = true) (h : P s) (hstep : step s = .next t) : P t := by
  cases StepEffect.of_step hstep with
  | command i => exact H.congr ((commandStage_frame i s).cfg ▸ hc) (H.command hc h i) (State.complete_sameData _ _)
  | illegal => exact H.congr hc h (State.complete_sameData _ _)
  | idle => exact h
  | input queue delay he =>
    refine H.input ?_ (H.congr hc h ?_) he
    · exact hc
    · exact ⟨rfl, rfl, rfl, rfl, rfl, rfl, rfl, rfl, rfl, rfl⟩

end DataInvariant

/-! ### The sizes of what the commands write -/

/-- The bounds the parameters keep (00_scope R6). -/
theorem Config.wellFormed_bounds {c : Config} (h : c.wellFormed = true) :
    c.textMax ≤ 8192 ∧ c.textMax ≤ c.segMax ∧ c.segMax ≤ 8192 ∧ c.pixMax ≤ 4194304 := by
  simp only [Config.wellFormed, Bool.and_eq_true, decide_eq_true_eq] at h
  omega

@[simp] theorem bytesLE_length (n val : Nat) : (bytesLE n val).length = n := by simp [bytesLE]

@[simp] theorem segEntryBytes_length (x : Segment) : (segEntryBytes x).length = 16 := by simp [segEntryBytes]

/-- A concatenation of runs of one length. -/
theorem length_flatMap_const {α β : Type} (f : α → List β) (k : Nat) (h : ∀ x, (f x).length = k) (l : List α) :
    (l.flatMap f).length = k * l.length := by
  simp [List.length_flatMap, h, Nat.mul_comm]

/-- The table of a segmentation takes 16 bytes per segment (10_state R48). -/
@[simp] theorem segTable_length (segs : List Segment) : (segs.flatMap segEntryBytes).length = 16 * segs.length :=
  length_flatMap_const _ 16 segEntryBytes_length segs

/-- The segments of the loop from index i: each ends inside the text, and there are at most as many as bytes
(40_segmenter R123, R124). -/
theorem segmentLoop_bounds (l : List Byte) (cur : Segment) (i : Nat) (hcur : cur.start + cur.count ≤ i) :
    (segmentLoop cur i l).length ≤ l.length + 1 ∧ ∀ x ∈ segmentLoop cur i l, x.start + x.count ≤ i + l.length := by
  induction l generalizing cur i with
  | nil => simpa [segmentLoop] using hcur
  | cons b rest ih =>
    rw [segmentLoop]
    split
    · next m hm =>
      obtain ⟨hlen, hmem⟩ := ih { cur with mode := m, count := cur.count + 1 } (i + 1) (by simp only; omega)
      exact ⟨by simp only [List.length_cons]; omega, fun x hx => by have := hmem x hx; simp only [List.length_cons]; omega⟩
    · obtain ⟨hlen, hmem⟩ := ih { mode := modeOf (classOf b), start := i, count := 1 } (i + 1) (by simp)
      refine ⟨by simp only [List.length_cons]; omega, fun x hx => ?_⟩
      simp only [List.mem_cons, List.length_cons] at hx ⊢
      obtain rfl | hx := hx
      · omega
      · have := hmem x hx
        omega

/-- A text has at most as many segments as bytes (40_segmenter R124). -/
theorem segmentText_length_le (t : List Byte) : (segmentText t).length ≤ t.length := by
  cases t with
  | nil => simp [segmentText]
  | cons b rest => exact (segmentLoop_bounds rest _ 1 (by simp)).1

/-- Every segment lies inside the text (40_segmenter R124). -/
theorem segmentText_inside (t : List Byte) {x : Segment} (hx : x ∈ segmentText t) : x.start + x.count ≤ t.length := by
  cases t with
  | nil => simp [segmentText] at hx
  | cons b rest =>
    have := (segmentLoop_bounds rest _ 1 (by simp)).2 x hx
    simp only [List.length_cons]
    omega

@[simp] theorem bitsMsb_length (w x : Nat) : (bitsMsb w x).length = w := by simp [bitsMsb]

/-- pack_num gives 10 bits for three digits, 7 and 4 for the rest (40_segmenter R127). -/
theorem packNum_length (l : List Nat) : (packNum l).length = dataBits .num l.length := by
  induction l using packNum.induct with
  | case1 a b c rest ih =>
    have h1 : (rest.length + 3) / 3 = rest.length / 3 + 1 := by omega
    have h2 : (rest.length + 3) % 3 = rest.length % 3 := by omega
    simp only [packNum, List.length_append, bitsMsb_length, ih, List.length_cons, dataBits, h1, h2]
    omega
  | case2 a b => simp [packNum, dataBits]
  | case3 a => simp [packNum, dataBits]
  | case4 => simp [packNum, dataBits]

/-- pack_alnum gives 11 bits for two characters and 6 for one (40_segmenter R128). -/
theorem packAlnum_length (l : List Nat) : (packAlnum l).length = dataBits .alnum l.length := by
  induction l using packAlnum.induct with
  | case1 a b rest ih =>
    simp only [packAlnum, List.length_append, bitsMsb_length, ih, List.length_cons, dataBits]
    omega
  | case2 a => simp [packAlnum, dataBits]
  | case3 => simp [packAlnum, dataBits]

/-- data_bits is the number of bits a segment packs to (40_segmenter R129). -/
theorem pack_length (m : Mode) (bytes : List Byte) : (pack m bytes).length = dataBits m bytes.length := by
  cases m with
  | num => simp [pack, packNum_length]
  | alnum => simp [pack, packAlnum_length]
  | byte => exact length_flatMap_const bitsOfByte 8 (fun b => bitsMsb_length 8 b.toNat) bytes

/-- The bitstream and its terminator take required_bits bits (41_bitstream R154). -/
theorem bitstream_length (ss : List SegData) (v : Nat) : (bitstream ss v).length + 4 = requiredBits ss v := by
  simp [bitstream, requiredBits, List.length_flatMap, segStream, segBits, pack_length, SegData.count, Nat.add_assoc]

/-- Whole groups of eight bits give one codeword each (41_bitstream R162). -/
theorem bytesOfBits_length : ∀ bs : List Bool, (bytesOfBits bs).length = bs.length / 8
  | b7 :: b6 :: b5 :: b4 :: b3 :: b2 :: b1 :: b0 :: rest => by
    simp only [bytesOfBits, List.length_cons, bytesOfBits_length rest]
    omega
  | [] | [_] | [_, _] | [_, _, _] | [_, _, _, _] | [_, _, _, _, _] | [_, _, _, _, _, _] | [_, _, _, _, _, _, _] => by
    simp [bytesOfBits]

/-- D has exactly DATA codewords where the data fits (41_bitstream R160 to R163). -/
theorem dataCodewords_length {ss : List SegData} {v : Nat} {lv : Level} (h : requiredBytes ss v ≤ dataCw v lv) :
    (dataCodewords ss v lv).length = dataCw v lv := by
  have hb := bitstream_length ss v
  unfold requiredBytes at h
  simp only [dataCodewords, List.length_append, bytesOfBits_length, padToByte, padCodewords, List.length_map,
    List.length_range, List.length_replicate, List.length_cons, List.length_nil]
  omega

/-- The version selected is one of 1 to 40, and the data fits it (41_bitstream R157). -/
theorem selectVersion_some {ss : List SegData} {lv : Level} {v : Nat} (h : selectVersion ss lv = some v) :
    1 ≤ v ∧ v ≤ 40 ∧ requiredBytes ss v ≤ dataCw v lv := by
  have hmem := List.mem_of_find?_eq_some h
  have hfit := List.find?_some h
  simp only [List.mem_range'_1] at hmem
  simp only [versionFits, Bool.and_eq_true, decide_eq_true_eq] at hfit
  exact ⟨hmem.1, by omega, hfit.2⟩

/-- No version has more codewords than DCW_BUF and CW_BUF hold (10_state R49, R50). -/
theorem codeword_bounds {v : Nat} (hv : v ≤ 40) (lv : Level) : dataCw v lv ≤ 2956 ∧ totalCw v ≤ 3706 := by
  have h : ∀ u : Fin 41, ∀ k : Fin 4, dataCw u.val ([Level.l, .m, .q, .h].getD k.val .l) ≤ 2956 ∧ totalCw u.val ≤ 3706 := by
    decide +kernel
  have hu := h ⟨v, by omega⟩
  cases lv
  exacts [hu 0, hu 1, hu 2, hu 3]

/-! ### The shape of a symbol -/

/-- A run of steps that each keep the side keeps it. -/
theorem foldl_side {α : Type} (f : Grid → α → Grid) (hf : ∀ g x, (f g x).side = g.side) (l : List α) (g : Grid) :
    (l.foldl f g).side = g.side := by
  induction l generalizing g with
  | nil => rfl
  | cons x rest ih => rw [List.foldl_cons, ih, hf]

@[simp] theorem Grid.setDark_side (g : Grid) (r c : Nat) (b : Bool) : (g.setDark r c b).side = g.side := rfl

theorem Grid.writeFormat_side (g : Grid) (f : Nat) : (g.writeFormat f).side = g.side := by
  unfold Grid.writeFormat
  refine foldl_side _ (fun g i => ?_) (List.range 15) g
  simp only [Grid.setDark_side]

theorem candidate_side (m : Grid) (lv : Level) (k : Nat) : (candidate m lv k).side = m.side :=
  (m.applyMask k).writeFormat_side (formatWord lv k)

/-- What placement returns, it returns for TOTAL codewords, on a matrix of the same side (43_matrix_layout R225 to R227). -/
theorem place_some {cw : List Byte} {v : Nat} {g m : Grid} (h : place cw v g = some m) :
    cw.length = totalCw v ∧ m.side = g.side := by
  unfold place at h
  simp only at h
  split at h
  · cases h
  · next hn =>
    obtain rfl := Option.some.inj h
    refine ⟨by omega, foldl_side _ (fun g x => ?_) _ g⟩
    simp only [Grid.setDark_side]

/-- The symbol of a selected version: its version and level, the numbers of its codewords, and its side
(44_mask_penalty R251). -/
structure SymbolShape (lv : Level) (v : Nat) (y : Symbol) : Prop where
  version_le : v ≤ 40
  version : y.version = v
  level : y.level = lv
  dcw : y.dcw.length = dataCw v lv
  cw : y.cw.length = totalCw v
  side : y.matrix.side = sideOf v

theorem encodeSymbol_shape {ss : List SegData} {lv : Level} {v : Nat} {y : Symbol} (hv : selectVersion ss lv = some v)
    (hy : encodeSymbol ss lv v = some y) : SymbolShape lv v y := by
  obtain ⟨-, hv40, hfit⟩ := selectVersion_some hv
  obtain ⟨m, hm, rfl⟩ := Option.map_eq_some_iff.mp hy
  obtain ⟨hcw, hside⟩ := place_some hm
  exact ⟨hv40, rfl, rfl, dataCodewords_length hfit, hcw, (candidate_side m lv _).trans hside⟩

theorem SymbolShape.side_le {lv : Level} {v : Nat} {y : Symbol} (h : SymbolShape lv v y) : y.matrix.side ≤ 177 := by
  have hv := h.version_le
  rw [h.side, sideOf]
  omega

end Sys2Proof.Machine
end

section
/-! ## What each command writes

The interval of offsets each command's body writes to, and the memory invariant. -/

namespace Sys2Proof.Machine

/-! ### The rows of the matrix -/

/-- The induction over the rows a matrix write stores, `P r` being what holds after the first r rows. -/
theorem State.writeMatrix_induction {P : Nat → State → Prop} {s : State} (g : Grid) (h : P 0 s)
    (hrow : ∀ r t, r < g.side → P r t → P (r + 1)
      (t.writeBytes (Window.base .matrixBuf + 177 * r) ((List.range g.side).map (g.moduleByte r)))) :
    P g.side (s.writeMatrix g) := by
  unfold State.writeMatrix
  suffices key : ∀ n, n ≤ g.side → P n ((List.range n).foldl (fun s r =>
      s.writeBytes (Window.base .matrixBuf + 177 * r) ((List.range g.side).map (g.moduleByte r))) s) from key g.side le_rfl
  intro n hn
  induction n with
  | zero => exact h
  | succ n ih =>
    rw [List.range_succ, List.foldl_append]
    exact hrow n _ hn (ih (by omega))

theorem State.writeMatrix_writesOnly (s : State) {g : Grid} (hg : g.side ≤ 177) :
    WritesOnly s (s.writeMatrix g) 0x50000 0x57A61 := by
  refine State.writeMatrix_induction (P := fun _ t => WritesOnly s t 0x50000 0x57A61) g ⟨rfl, fun _ _ => rfl⟩ ?_
  intro r t hr ht
  refine ht.trans ((t.writeBytes_writesOnly _ _).mono ?_ ?_)
  · simp only [Window.base]; omega
  · simp only [Window.base, List.length_map, List.length_range]; omega

/-- Every module byte of the matrix written is listed. -/
theorem State.writeMatrix_listed (s : State) (g : Grid) :
    ∀ r, r < g.side → (s.writeMatrix g).Listed (Window.base .matrixBuf + 177 * r) g.side := by
  refine State.writeMatrix_induction
    (P := fun n t => ∀ r, r < n → t.Listed (Window.base .matrixBuf + 177 * r) g.side) g
    (fun r hr => absurd hr (by omega)) ?_
  intro n t _ ht r hr
  obtain hr | rfl : r < n ∨ r = n := by omega
  · exact (ht r hr).writeBytes _ _
  · simpa using t.listed_writeBytes (Window.base .matrixBuf + 177 * r) ((List.range g.side).map (g.moduleByte r))

theorem MemoryInv.writeMatrix {s : State} (h : MemoryInv s) {g : Grid} (hg : g.side ≤ 177) :
    MemoryInv (s.writeMatrix g) := by
  refine State.writeMatrix_induction (P := fun _ t => MemoryInv t) g h ?_
  intro r t hr ht
  refine ht.writeBytes .matrixBuf (by omega) ?_
  simp only [Window.size, List.length_map, List.length_range]
  omega

/-! ### The other runs of bytes -/

/-- The division register keeps its length (42_reed_solomon R183). -/
theorem rsStep_length {g r : List Byte} (d : Byte) (h : r.length = g.length) : (rsStep g r d).length = g.length := by
  simp only [rsStep, List.length_zipWith, List.length_append, List.length_tail, List.length_singleton]
  omega

/-- g_E has E + 1 coefficients (42_reed_solomon R182). -/
theorem genPoly_length (e : Nat) : (genPoly e).length = e + 1 := by
  induction e with
  | zero => rfl
  | succ e ih => simp [genPoly, ih]

/-- rs_ec gives E codewords (42_reed_solomon R183). -/
theorem rsEc_length (d : List Byte) (e : Nat) : (rsEc d e).length = e := by
  have hg : (genPoly e).tail.length = e := by simp [genPoly_length]
  suffices key : ∀ r : List Byte, r.length = e → (d.foldl (rsStep (genPoly e).tail) r).length = e from
    key _ List.length_replicate
  induction d with
  | nil => exact fun r hr => hr
  | cons b rest ih => exact fun r hr => ih _ ((rsStep_length b (hr.trans hg.symm)).trans hg)

/-- The image has dim * dim pixels (45_rasterizer R274). -/
theorem pixelWords_length (n m mp dim : Nat) (dark : Array Bool) (dc lc : Word) :
    (pixelWords n m mp dim dark dc lc).length = dim * dim := by
  rw [pixelWords, length_flatMap_const _ dim (fun _ => by simp), List.length_range]

/-- The image takes four bytes per pixel (10_state R52). -/
theorem pixelBytes_length (ws : List Word) : (ws.flatMap fun w => bytesLE 4 w.toNat).length = 4 * ws.length :=
  length_flatMap_const _ 4 (fun w => bytesLE_length 4 w.toNat) ws

theorem State.image_length (s : State) : s.image.length
    = outDim s.rasterW s.rasterN s.rasterM * outDim s.rasterW s.rasterN s.rasterM := pixelWords_length ..

@[simp] theorem State.textBytes_length (s : State) (start n : Nat) : (s.textBytes start n).length = n := by
  simp [State.textBytes]

/-! ### The intervals -/

/-- SEGMENT of a legal text writes within SEG_TABLE (40_segmenter R130). -/
theorem State.writeSegments_writesOnly (s : State) {segs : List Segment} (h : segs.length ≤ 8192) :
    WritesOnly s (s.writeSegments segs) 0x20000 0x40000 := by
  have hw := (s.writeBytes_writesOnly (Window.base .segTable) (segs.flatMap segEntryBytes)).mono (lo' := 0x20000)
    (hi' := 0x40000) le_rfl (by simp only [Window.base, segTable_length]; omega)
  exact ⟨rfl, hw.cells⟩

/-- The segments of a text of legal length fit SEG_TABLE (00_scope R6). -/
theorem segments_fit {s : State} (hc : s.cfg.wellFormed = true) (hn : s.textLen ≤ s.cfg.textMax) :
    (segmentText (s.textBytes 0 s.textLen)).length ≤ s.cfg.segMax
      ∧ (segmentText (s.textBytes 0 s.textLen)).length ≤ 8192 := by
  have := segmentText_length_le (s.textBytes 0 s.textLen)
  have := Config.wellFormed_bounds hc
  rw [State.textBytes_length] at *
  omega

/-- The state SEGMENT leaves of a text of legal length (40_segmenter R130). -/
def State.segmented (s : State) : State := s.segmentStart.writeSegments (segmentText (s.textBytes 0 s.textLen))

theorem State.segmented_writesOnly {s : State} (hc : s.cfg.wellFormed = true) (hn : s.textLen ≤ s.cfg.textMax) :
    WritesOnly s s.segmented 0x20000 0x40000 :=
  .trans (t := s.segmentStart) ⟨rfl, fun _ _ => rfl⟩ (State.writeSegments_writesOnly _ (segments_fit hc hn).2)

theorem segmentStage_writesOnly {s : State} (hc : s.cfg.wellFormed = true) :
    WritesOnly s (segmentStage s).state 0x20000 0x40000 := by
  obtain ⟨-, h⟩ | ⟨-, hn, h⟩ := segmentStage_cases s <;> rw [h]
  · exact ⟨rfl, fun _ _ => rfl⟩
  · exact State.segmented_writesOnly hc hn

/-- The buffers after a BUILD: DCW_BUF, CW_BUF, MATRIX_BUF (44_mask_penalty R251). -/
theorem State.writeSymbol_mem (s : State) (y : Symbol) : (s.writeSymbol y).mem
    = (((s.writeBytes (Window.base .dcwBuf) y.dcw).writeBytes (Window.base .cwBuf) y.cw).writeMatrix y.matrix).mem := rfl

section
variable {lv : Level} {v : Nat} {y : Symbol}

/-- The two codeword sequences of a symbol fit their buffers. -/
theorem SymbolShape.codewords_fit (h : SymbolShape lv v y) : y.dcw.length ≤ 2956 ∧ y.cw.length ≤ 3706 := by
  rw [h.dcw, h.cw]
  exact codeword_bounds h.version_le lv

theorem State.writeSymbol_writesOnly (s : State) (h : SymbolShape lv v y) :
    WritesOnly s (s.writeSymbol y) 0x40000 0x57A61 := by
  obtain ⟨hd, hcw⟩ := h.codewords_fit
  have h1 := (s.writeBytes_writesOnly (Window.base .dcwBuf) y.dcw).mono (lo' := 0x40000) (hi' := 0x57A61) le_rfl
    (by simp only [Window.base]; omega)
  have h2 := ((s.writeBytes (Window.base .dcwBuf) y.dcw).writeBytes_writesOnly (Window.base .cwBuf) y.cw).mono
    (lo' := 0x40000) (hi' := 0x57A61) (by decide) (by simp only [Window.base]; omega)
  have h3 := (((s.writeBytes (Window.base .dcwBuf) y.dcw).writeBytes (Window.base .cwBuf) y.cw).writeMatrix_writesOnly
    h.side_le).mono (lo' := 0x40000) (hi' := 0x57A61) (by decide) le_rfl
  exact ⟨s.writeSymbol_epoch y, ((h1.trans h2).trans h3).cells⟩

end

theorem buildSegments_writesOnly (s : State) (ss : List SegData) (lv : Level) :
    WritesOnly s (buildSegments s ss lv).state 0x40000 0x57A61 := by
  obtain ⟨-, h⟩ | ⟨v, -, -, h⟩ | ⟨v, y, hv, hy, h⟩ := buildSegments_cases s ss lv <;> rw [h]
  · exact ⟨rfl, fun _ _ => rfl⟩
  · exact ⟨rfl, fun _ _ => rfl⟩
  · exact s.writeSymbol_writesOnly (encodeSymbol_shape hv hy)

theorem buildStage_writesOnly (s : State) : WritesOnly s (buildStage s).state 0x40000 0x57A61 := by
  obtain ⟨-, h⟩ | ⟨-, -, h⟩ | ⟨segs, -, -, h⟩ := buildStage_cases s <;> rw [h]
  · exact ⟨rfl, fun _ _ => rfl⟩
  · exact ⟨rfl, fun _ _ => rfl⟩
  · exact .trans (t := s.buildStart) ⟨rfl, fun _ _ => rfl⟩ (buildSegments_writesOnly _ _ _)

theorem rasterStage_writesOnly {s : State} (hc : s.cfg.wellFormed = true) :
    WritesOnly s (rasterStage s).state 0x1000000 0x2000000 := by
  obtain ⟨-, h⟩ | ⟨-, -, -, h⟩ | ⟨-, -, hp, h⟩ := rasterStage_cases s <;> rw [h]
  · exact ⟨rfl, fun _ _ => rfl⟩
  · exact ⟨rfl, fun _ _ => rfl⟩
  · have hpix := Config.wellFormed_bounds hc
    have hw := (s.rasterStart.writeRasterSize.writeBytes_writesOnly (Window.base .pixelBuf)
      (s.image.flatMap fun w => bytesLE 4 w.toNat)).mono (lo' := 0x1000000) (hi' := 0x2000000) le_rfl
      (by rw [pixelBytes_length, s.image_length]; simp only [Window.base]; omega)
    exact ⟨hw.epoch, hw.cells⟩

theorem rsEncodeStage_writesOnly (s : State) : WritesOnly s (rsEncodeStage s).state 0x1000 0x1100 := by
  obtain ⟨-, h⟩ | ⟨hl, h⟩ := rsEncodeStage_cases s <;> rw [h]
  · exact ⟨rfl, fun _ _ => rfl⟩
  · obtain ⟨-, -, -, hke⟩ := s.rsLegal_iff.mp hl
    refine (s.writeBytes_writesOnly _ _).mono ?_ ?_
    · simp only [Window.base]; omega
    · rw [rsEc_length]; simp only [Window.base]; omega

/-- A host's byte write stores in TEXT_BUF or RS_BUF alone (20_memory R67). -/
theorem State.writeBufByte_writesOnly {s : State} (hc : s.cfg.wellFormed = true) (off : Nat) (b : Byte) :
    WritesOnly s (s.writeBufByte off b) 0x1000 0x12000 := by
  have hbounds := Config.wellFormed_bounds hc
  obtain h | ⟨hw, h⟩ | ⟨hw, h⟩ := s.writeBufByte_cases off b <;> rw [h]
  · exact ⟨rfl, fun _ _ => rfl⟩
  · have hin := windowOf_bounds hw
    simp only [Window.base, Window.size] at hin
    have hb := (s.writeBytes_writesOnly off [b]).mono (lo' := 0x1000) (hi' := 0x12000) (by omega)
      (by simp only [List.length_singleton]; omega)
    exact ⟨rfl, hb.cells⟩
  · have hin := windowOf_bounds hw
    simp only [Window.base, Window.size] at hin
    exact (s.writeBytes_writesOnly off [b]).mono (by omega) (by simp only [List.length_singleton]; omega)

@[simp] theorem State.storeReg_mem (s : State) (r : Reg) (v : Word) : (s.storeReg r v).mem = s.mem := by
  rw [State.storeReg_eq]

@[simp] theorem State.storeReg_cfg (s : State) (r : Reg) (v : Word) : (s.storeReg r v).cfg = s.cfg := by
  rw [State.storeReg_eq]

/-- GENERATE writes above TEXT_BUF alone (46_control R291). -/
theorem generateStage_writesOnly {s : State} (hc : s.cfg.wellFormed = true) :
    WritesOnly s (generateStage s).state 0x20000 0x2000000 := by
  refine (generateStage_state (P := fun u => u.cfg.wellFormed = true ∧ WritesOnly s u 0x20000 0x2000000)
    ⟨hc, rfl, fun _ _ => rfl⟩ ?_ ?_ ?_).2
  · rintro u ⟨hu, hw⟩
    exact ⟨(segmentStage_frame u).cfg ▸ hu, hw.trans ((segmentStage_writesOnly hu).mono (by decide) (by decide))⟩
  · rintro u ⟨hu, hw⟩
    exact ⟨(buildStage_frame u).cfg ▸ hu, hw.trans ((buildStage_writesOnly u).mono (by decide) (by decide))⟩
  · rintro u ⟨hu, hw⟩
    exact ⟨(rasterStage_frame u).cfg ▸ hu, hw.trans ((rasterStage_writesOnly hu).mono (by decide) (by decide))⟩

/-- Every command but RS_ENCODE writes above TEXT_BUF alone (10_state R40). -/
theorem commandStage_writesOnly {s : State} (hc : s.cfg.wellFormed = true) {i : Instr} (hi : i ≠ .rsEncode) :
    WritesOnly s (commandStage i s).state 0x20000 0x2000000 := by
  cases i with
  | nop => exact ⟨rfl, fun _ _ => rfl⟩
  | segment => exact (segmentStage_writesOnly hc).mono (by decide) (by decide)
  | build => exact (buildStage_writesOnly s).mono (by decide) (by decide)
  | raster => exact (rasterStage_writesOnly hc).mono (by decide) (by decide)
  | generate => exact generateStage_writesOnly hc
  | rsEncode => exact absurd rfl hi

/-! ### The results each command leaves as they are -/

theorem segmentStage_keeps (s : State) : let t := (segmentStage s).state
    t.build = s.build ∧ t.raster = s.raster ∧ t.status.symv = s.status.symv ∧ t.status.pixv = s.status.pixv := by
  obtain ⟨-, h⟩ | ⟨-, -, h⟩ := segmentStage_cases s <;> simp [h]

theorem buildSegments_keeps (s : State) (ss : List SegData) (lv : Level) : let t := (buildSegments s ss lv).state
    t.segCount = s.segCount ∧ t.raster = s.raster ∧ t.status.segv = s.status.segv ∧ t.status.pixv = s.status.pixv := by
  obtain ⟨-, h⟩ | ⟨v, -, -, h⟩ | ⟨v, y, -, -, h⟩ := buildSegments_cases s ss lv <;> simp [h]

theorem buildStage_keeps (s : State) : let t := (buildStage s).state
    t.segCount = s.segCount ∧ t.raster = s.raster ∧ t.status.segv = s.status.segv ∧ t.status.pixv = false := by
  obtain ⟨-, h⟩ | ⟨-, -, h⟩ | ⟨segs, -, -, h⟩ := buildStage_cases s <;> rw [h]
  · simp
  · simp
  · exact buildSegments_keeps s.buildStart _ _

theorem rasterStage_keeps (s : State) : let t := (rasterStage s).state
    t.segCount = s.segCount ∧ t.build = s.build ∧ t.status.segv = s.status.segv ∧ t.status.symv = s.status.symv := by
  obtain ⟨-, h⟩ | ⟨-, -, -, h⟩ | ⟨-, -, -, h⟩ := rasterStage_cases s <;> simp [h]

theorem rsEncodeStage_keeps (s : State) : let t := (rsEncodeStage s).state
    t.segCount = s.segCount ∧ t.build = s.build ∧ t.raster = s.raster ∧ t.status = s.status := by
  obtain ⟨-, h⟩ | ⟨-, h⟩ := rsEncodeStage_cases s <;> simp [h]

/-! ### The memory invariant is kept -/

/-- The runs of bytes that every operation writes lie in their windows. -/
theorem memoryInv_dataInvariant : DataInvariant MemoryInv where
  congr _ h hd := h.congr hd.cfg hd.mem
  reset cfg epoch := ⟨Memory.nil_wf, fun _ _ h => by simp [State.afterReset, Memory.get?] at h⟩
  storeReg r v _ h := h.congr (State.storeReg_cfg _ r v) (State.storeReg_mem _ r v)
  writeBufByte {s} off b hc h := by
    obtain he | ⟨hw, he⟩ | ⟨hw, he⟩ := s.writeBufByte_cases off b <;> rw [he]
    · exact h
    · have hin := windowOf_bounds hw
      exact (h.writeBytes (bytes := [b]) .textBuf hin.1 (by simpa using hin.2)).congr rfl rfl
    · have hin := windowOf_bounds hw
      exact h.writeBytes .rsBuf hin.1 (by simpa using hin.2)
  segment {s} hc h := by
    obtain ⟨-, he⟩ | ⟨-, hn, he⟩ := segmentStage_cases s <;> rw [he]
    · exact h.congr rfl rfl
    · refine (h.writeBytes .segTable le_rfl ?_).congr rfl rfl
      have := (segments_fit hc hn).1
      rw [segTable_length, Window.size]
      omega
  build {s} hc h := by
    obtain ⟨-, he⟩ | ⟨-, -, he⟩ | ⟨segs, -, -, he⟩ := buildStage_cases s <;> rw [he]
    · exact h.congr rfl rfl
    · exact h.congr rfl rfl
    · obtain ⟨-, he⟩ | ⟨v, -, -, he⟩ | ⟨v, y, hv, hy, he⟩ :=
        buildSegments_cases s.buildStart (segs.map s.segData) s.level <;> rw [he]
      · exact h.congr rfl rfl
      · exact h.congr rfl rfl
      · have hshape := encodeSymbol_shape hv hy
        obtain ⟨hd, hcw⟩ := hshape.codewords_fit
        have h0 : MemoryInv s.buildStart := h.congr rfl rfl
        have h1 := h0.writeBytes (bytes := y.dcw) .dcwBuf le_rfl (by rw [Window.size]; omega)
        have h2 := h1.writeBytes (bytes := y.cw) .cwBuf le_rfl (by rw [Window.size]; omega)
        exact (h2.writeMatrix hshape.side_le).congr (by simp) (s.buildStart.writeSymbol_mem y)
  raster {s} hc h := by
    obtain ⟨-, he⟩ | ⟨-, -, -, he⟩ | ⟨-, -, hp, he⟩ := rasterStage_cases s <;> rw [he]
    · exact h.congr rfl rfl
    · exact h.congr rfl rfl
    · refine (h.writeBytes .pixelBuf le_rfl ?_).congr rfl rfl
      rw [pixelBytes_length, s.image_length, Window.size]
      omega
  rsEncode {s} hc h := by
    obtain ⟨-, he⟩ | ⟨hl, he⟩ := rsEncodeStage_cases s <;> rw [he]
    · exact h
    · obtain ⟨-, -, -, hke⟩ := s.rsLegal_iff.mp hl
      refine h.writeBytes .rsBuf (by omega) ?_
      rw [rsEc_length, Window.size]
      omega

/-- Settles O56: each operation writes runs of bytes inside one window. -/
theorem stepKeepsMemory : Obligations.StepKeepsMemory :=
  fun _ _ hc hwf hwin hstep => memoryInv_dataInvariant.step hc ⟨hwf, hwin⟩ hstep

/-- Settles O36: the interval each command writes to lies outside TEXT_BUF, and outside RS_BUF but for RS_ENCODE. -/
theorem engineWritesNoInput : Obligations.EngineWritesNoInput := by
  intro i s t hc hexec
  rw [exec_eq] at hexec
  obtain rfl := Host.Outcome.next.inj hexec
  obtain ⟨hcfg, hcmd, hlatched, hconf, -, hreset, hqueue, hreads, -⟩ := commandStage_frame i s
  refine ⟨hcfg, hconf, hcmd, hlatched, hreset, hqueue, hreads, fun k hk => ?_, fun hi k hk => ?_⟩
  · have hbounds := Config.wellFormed_bounds hc
    by_cases hi : i = .rsEncode
    · subst hi
      exact (rsEncodeStage_writesOnly s).byteAt (by omega)
    · exact (commandStage_writesOnly hc hi).byteAt (by omega)
  · exact (commandStage_writesOnly hc hi).byteAt (by omega)

end Sys2Proof.Machine
end

section
/-! ## The validity bits

What each validity bit stands for, as a property of the buffers that a write elsewhere keeps, that the command which sets the
bit leaves, and that makes the invariant. -/

namespace Sys2Proof.Machine

/-! ### Parts of a run of bytes -/

/-- A part of a run read is the part of what the run reads. -/
theorem State.readBytes_part (s : State) (off : Nat) {k n len : Nat} (h : k + n ≤ len) :
    s.readBytes (off + k) n = ((s.readBytes off len).drop k).take n := by
  apply List.ext_getElem
  · simp only [State.readBytes_length, List.length_take, List.length_drop]
    omega
  · intro i h1 h2
    simp [State.readBytes, Nat.add_assoc]

/-- In a concatenation of runs of length k, the i-th part of length k is the i-th run. -/
theorem flatMap_part {α β : Type} (f : α → List β) (k : Nat) (hk : ∀ x, (f x).length = k) (l : List α) (i : Nat)
    (hi : i < l.length) : ((l.flatMap f).drop (k * i)).take k = f l[i] := by
  induction l generalizing i with
  | nil => simp at hi
  | cons x rest ih =>
    cases i with
    | zero => simp [List.flatMap_cons, ← hk x]
    | succ i =>
      have hlen : k * (i + 1) = (f x).length + k * i := by rw [hk, Nat.mul_succ, Nat.add_comm]
      rw [List.flatMap_cons, hlen, List.drop_length_add_append, List.getElem_cons_succ]
      exact ih i (by simpa using hi)

/-! ### SEGV: the segment table -/

/-- Word w of the SEG_TABLE entry of a segment (10_state R48). -/
def Segment.word (x : Segment) (w : Nat) : Nat :=
  [x.mode.indicator, x.start, x.count, dataBits x.mode x.count].getD w 0

theorem segEntryBytes_eq (x : Segment) : segEntryBytes x = (List.range 4).flatMap fun w => bytesLE 4 (x.word w) := by
  simp [segEntryBytes, List.range_succ, Segment.word]

/-- SEG_COUNT and SEG_TABLE hold the segments, every byte written (10_state R42, R48). -/
structure HoldsTable (segs : List Segment) (t : State) : Prop where
  count : t.segCount.toNat = segs.length
  bytes : t.readBytes 0x20000 (16 * segs.length) = segs.flatMap segEntryBytes
  listed : t.Listed 0x20000 (16 * segs.length)

theorem State.writeSegments_holds (s : State) {segs : List Segment} (h : segs.length ≤ 8192) :
    HoldsTable segs (s.writeSegments segs) where
  count := by
    rw [State.writeSegments_segCount, BitVec.toNat_ofNat]
    omega
  bytes := by
    rw [← segTable_length]
    exact s.readBytes_writeBytes 0x20000 (segs.flatMap segEntryBytes)
  listed := by
    rw [← segTable_length]
    exact s.listed_writeBytes 0x20000 (segs.flatMap segEntryBytes)

/-- Word w of entry i, read back (10_state R48). -/
theorem HoldsTable.segWord {segs : List Segment} {t : State} (h : HoldsTable segs t) {i : Nat} (hi : i < segs.length)
    {w : Nat} (hw : w < 4) : t.segWord i w = natOfBytesLE (bytesLE 4 (segs[i].word w)) := by
  have hentry : t.readBytes (0x20000 + 16 * i) 16 = segEntryBytes segs[i] := by
    rw [t.readBytes_part 0x20000 (len := 16 * segs.length) (by omega), h.bytes]
    exact flatMap_part segEntryBytes 16 segEntryBytes_length segs i hi
  have hword : t.readBytes (0x20000 + 16 * i + 4 * w) 4 = bytesLE 4 (segs[i].word w) := by
    rw [t.readBytes_part _ (len := 16) (by omega), hentry, segEntryBytes_eq]
    rw [flatMap_part _ 4 (fun w => bytesLE_length 4 _) _ w (by simpa using hw), List.getElem_range]
  exact congrArg natOfBytesLE hword

/-- The four bytes of a value of 32 bits give it back (20_memory R63). -/
theorem natOfBytesLE_bytesLE {n : Nat} (h : n < 2 ^ 32) : natOfBytesLE (bytesLE 4 n) = n := by
  simp only [bytesLE, List.range_succ, List.range_zero, List.nil_append, List.cons_append, List.map_cons, List.map_nil,
    natOfBytesLE, byteLane, BitVec.toNat_ofNat]
  omega

/-- A segment inside a text of at most 8192 bytes: its words fit their fields (10_state R48). -/
theorem Segment.word_bounds {x : Segment} (h : x.start + x.count ≤ 8192) (w : Nat) : x.word w < 2 ^ 32 := by
  have hind : x.mode.indicator ≤ 4 := by cases x.mode <;> decide
  have hbits : dataBits x.mode x.count ≤ 10 * 8192 := by
    cases x.mode <;> simp only [dataBits]
    · split
      · omega
      · split <;> omega
    · omega
    · omega
  match w with
  | 0 | 1 | 2 | 3 => simp [Segment.word]; omega
  | _ + 4 => simp [Segment.word]

/-- The four words of an entry are those of the segment. -/
def State.EntryIs (t : State) (i : Nat) (x : Segment) : Prop :=
  t.segWord i 0 = x.mode.indicator ∧ t.segWord i 1 = x.start ∧ t.segWord i 2 = x.count
    ∧ t.segWord i 3 = dataBits x.mode x.count

theorem HoldsTable.entryIs {segs : List Segment} {t : State} (h : HoldsTable segs t)
    (hin : ∀ x ∈ segs, x.start + x.count ≤ 8192) {i : Nat} {x : Segment} (hx : segs[i]? = some x) : t.EntryIs i x := by
  obtain ⟨hi, rfl⟩ := List.getElem?_eq_some_iff.mp hx
  have hword : ∀ w, w < 4 → t.segWord i w = segs[i].word w := fun w hw => by
    rw [h.segWord hi hw, natOfBytesLE_bytesLE (Segment.word_bounds (hin _ (List.getElem_mem hi)) w)]
  exact ⟨hword 0 (by decide), hword 1 (by decide), hword 2 (by decide), hword 3 (by decide)⟩

/-- An entry whose words are those of a segment inside a text of at most 8192 bytes reads as that segment. -/
theorem State.EntryIs.segEntry {t : State} {i : Nat} {x : Segment} (h : t.EntryIs i x) (hx : x.start + x.count ≤ 8192) :
    t.segEntry i = some x := by
  obtain ⟨hmode, hstart, hcount, -⟩ := h
  have hind : Mode.ofIndicator (x.mode.indicator % 16) = some x.mode := by cases x.mode <;> rfl
  simp only [State.segEntry, hmode, hstart, hcount, hind, Option.map_some]
  rw [Nat.mod_eq_of_lt (by omega), Nat.mod_eq_of_lt (by omega)]

/-- A map that succeeds on each element gives the list of the values. -/
theorem mapM_eq_some_of_forall₂ {α β : Type} {f : α → Option β} {l : List α} {l' : List β}
    (h : List.Forall₂ (fun x y => f x = some y) l l') : l.mapM f = some l' := by
  induction h with
  | nil => rfl
  | cons hx _ ih => simp [hx, ih]

/-- BUILD reads the segmentation back from its table (44_mask_penalty R250). -/
theorem SegmentResults.segments {s t : State} (h : SegmentResults s t) (hn : s.textLen ≤ 8192) :
    t.segments = some (segmentText (s.textBytes 0 s.textLen)) := by
  refine mapM_eq_some_of_forall₂ (List.forall₂_iff_get.mpr ⟨by rw [List.length_range, h.count], fun i h1 h2 => ?_⟩)
  have hx : t.EntryIs i ((segmentText (s.textBytes 0 s.textLen))[i]) := h.entries i _ (List.getElem?_eq_getElem h2)
  have hin := segmentText_inside _ (List.getElem_mem h2)
  rw [State.textBytes_length] at hin
  simpa using hx.segEntry (by omega)

/-- The table of the segmentation of a text of at most 8192 bytes holds its results (40_segmenter R130). -/
theorem HoldsTable.results {s t : State} (h : HoldsTable (segmentText (s.textBytes 0 s.textLen)) t)
    (hv : t.status.segv = true) (hn : s.textLen ≤ 8192) : SegmentResults s t where
  segv := hv
  count := h.count
  entries i x hx := h.entryIs (fun y hy => by
    have := segmentText_inside _ hy
    rw [State.textBytes_length] at this
    omega) hx
  listed := h.count ▸ h.listed

/-- The results of a segmentation depend on the text alone. -/
theorem SegmentResults.congr_text {s u t : State} (h : SegmentResults s t)
    (htext : u.textBytes 0 u.textLen = s.textBytes 0 s.textLen) : SegmentResults u t where
  segv := h.segv
  count := htext ▸ h.count
  entries := htext ▸ h.entries
  listed := h.listed

/-- A write elsewhere keeps the results of a segmentation. -/
theorem SegmentResults.of_writesOnly {s t u : State} {lo hi : Nat} (h : SegmentResults s t) (hn : s.textLen ≤ 8192)
    (hv : u.status.segv = true) (hcount : u.segCount = t.segCount) (hw : WritesOnly t u lo hi)
    (ho : hi ≤ 0x20000 ∨ 0x40000 ≤ lo) : SegmentResults s u := by
  have hlen := segmentText_length_le (s.textBytes 0 s.textLen)
  rw [State.textBytes_length, ← h.count] at hlen
  have hword : ∀ i w, i < t.segCount.toNat → w < 4 → u.segWord i w = t.segWord i w := fun i w hi hw4 =>
    congrArg natOfBytesLE (hw.readBytes (by simp only [Window.base]; omega))
  refine ⟨hv, hcount ▸ h.count, fun i x hx => ?_, hcount ▸ hw.listed (by simp only [Window.base]; omega) h.listed⟩
  have hi : i < t.segCount.toNat := h.count ▸ (List.getElem?_eq_some_iff.mp hx).1
  rw [hword i 0 hi (by decide), hword i 1 hi (by decide), hword i 2 hi (by decide), hword i 3 hi (by decide)]
  exact h.entries i x hx

/-- A write outside TEXT_BUF keeps the text. -/
theorem WritesOnly.textBytes {s t : State} {lo hi : Nat} (hw : WritesOnly s t lo hi) {start n : Nat}
    (ho : hi ≤ 0x10000 ∨ 0x10000 + (start + n) ≤ lo) : t.textBytes start n = s.textBytes start n :=
  hw.readBytes (by simp only [Window.base]; omega)

/-- SEGV is honest where the table holds the segmentation of the current text. -/
theorem SegmentResults.inv {s : State} (hc : s.cfg.wellFormed = true) (h1 : 1 ≤ s.textLen) (hn : s.textLen ≤ s.cfg.textMax)
    (h : SegmentResults s s) : SegmentTableInv s :=
  fun _ => ⟨h1, hn, h, h.segments (by have := Config.wellFormed_bounds hc; omega)⟩

theorem SegmentTableInv.of_segv_false {s : State} (h : s.status.segv = false) : SegmentTableInv s :=
  fun hv => absurd (h.symm.trans hv) Bool.false_ne_true

/-- Writes outside TEXT_BUF and SEG_TABLE, where neither TEXT_LEN nor SEG_COUNT changes, keep SEGV honest. -/
theorem SegmentTableInv.of_writesOnly {s t : State} {lo hi : Nat} (h : SegmentTableInv s) (hc : s.cfg.wellFormed = true)
    (hcfg : t.cfg = s.cfg) (hv : t.status.segv = true → s.status.segv = true) (hlen : t.conf.textLen = s.conf.textLen)
    (hcount : t.segCount = s.segCount) (hw : WritesOnly s t lo hi) (ho : hi ≤ 0x10000 ∨ 0x40000 ≤ lo) :
    SegmentTableInv t := by
  intro hvt
  obtain ⟨h1, hn, hres, -⟩ := h (hv hvt)
  have hbounds := Config.wellFormed_bounds hc
  have hn8 : s.textLen ≤ 8192 := by omega
  have htl : t.textLen = s.textLen := congrArg BitVec.toNat hlen
  have htext : t.textBytes 0 t.textLen = s.textBytes 0 s.textLen := by rw [htl, hw.textBytes (by omega)]
  have hres' := (hres.of_writesOnly hn8 hvt hcount hw (by omega)).congr_text htext
  exact hres'.inv (hcfg ▸ hc) (htl ▸ h1) (htl ▸ hcfg ▸ hn) hvt

section
variable {s : State} (hc : s.cfg.wellFormed = true) (hn : s.textLen ≤ s.cfg.textMax)
include hc hn

theorem State.segmented_holds : HoldsTable (segmentText (s.textBytes 0 s.textLen)) s.segmented :=
  State.writeSegments_holds _ (segments_fit hc hn).2

theorem State.segmented_results : SegmentResults s s.segmented :=
  (State.segmented_holds hc hn).results rfl (by have := Config.wellFormed_bounds hc; omega)

theorem State.segmented_text : s.segmented.textBytes 0 s.textLen = s.textBytes 0 s.textLen :=
  (State.segmented_writesOnly hc hn).textBytes (by have := Config.wellFormed_bounds hc; omega)

end

/-- A register write keeps SEGV as it is, but one to TEXT_LEN, which clears it (10_state R35). -/
theorem State.storeReg_textLen (s : State) (r : Reg) (v : Word) :
    (s.storeReg r v).status.segv = false
      ∨ ((s.storeReg r v).status.segv = s.status.segv ∧ (s.storeReg r v).conf.textLen = s.conf.textLen) := by
  cases r with
  | textLen => exact .inl rfl
  | _ => exact .inr ⟨rfl, rfl⟩

/-- SEGMENT sets SEGV for the table it writes; the other commands write elsewhere, and a host's write to the text clears
it. -/
theorem segmentTableInv_dataInvariant : DataInvariant SegmentTableInv where
  congr hc h hd := h.of_writesOnly hc hd.cfg (fun ht => hd.segv ▸ ht) (congrArg _ hd.conf) hd.segCount (lo := 0) (hi := 0)
    ⟨hd.epoch, fun _ _ => by rw [hd.mem]⟩ (by decide)
  reset cfg epoch := .of_segv_false rfl
  storeReg {s} r v hc h := by
    obtain hv | ⟨hv, hlen⟩ := s.storeReg_textLen r v
    · exact .of_segv_false hv
    · exact h.of_writesOnly hc (by simp) (fun ht => hv ▸ ht) hlen (by rw [State.storeReg_eq]) (lo := 0) (hi := 0)
        ⟨by rw [State.storeReg_eq], by simp⟩ (by decide)
  writeBufByte {s} off b hc h := by
    obtain he | ⟨-, he⟩ | ⟨hw, he⟩ := s.writeBufByte_cases off b <;> rw [he]
    · exact h
    · exact .of_segv_false rfl
    · have hin := windowOf_bounds hw
      simp only [Window.base, Window.size] at hin
      exact h.of_writesOnly hc rfl id rfl rfl (s.writeBytes_writesOnly off [b])
        (.inl (by simp only [List.length_singleton]; omega))
  segment {s} hc h := by
    obtain ⟨-, he⟩ | ⟨h1, hn, he⟩ := segmentStage_cases s <;> rw [he]
    · exact .of_segv_false rfl
    · exact ((State.segmented_results hc hn).congr_text (State.segmented_text hc hn)).inv hc h1 hn
  build {s} hc h := by
    obtain ⟨hcount, -, hv, -⟩ := buildStage_keeps s
    have hf := buildStage_frame s
    exact h.of_writesOnly hc hf.cfg (fun ht => hv ▸ ht) (congrArg _ hf.conf) hcount (buildStage_writesOnly s) (by decide)
  raster {s} hc h := by
    obtain ⟨hcount, -, hv, -⟩ := rasterStage_keeps s
    have hf := rasterStage_frame s
    exact h.of_writesOnly hc hf.cfg (fun ht => hv ▸ ht) (congrArg _ hf.conf) hcount (rasterStage_writesOnly hc) (by decide)
  rsEncode {s} hc h := by
    obtain ⟨hcount, -, -, hst⟩ := rsEncodeStage_keeps s
    have hf := rsEncodeStage_frame s
    exact h.of_writesOnly hc hf.cfg (fun ht => hst ▸ ht) (congrArg _ hf.conf) hcount (rsEncodeStage_writesOnly s) (by decide)

/-- Settles O57: no operation but SEGMENT writes to SEG_TABLE, and what changes the text clears SEGV. -/
theorem stepKeepsSegmentTable : Obligations.StepKeepsSegmentTable :=
  fun _ _ hc h hstep => segmentTableInv_dataInvariant.step hc h hstep

end Sys2Proof.Machine
end

section
/-! ## The symbol and the image -/

namespace Sys2Proof.Machine

/-! ### SYMV: the symbol -/

/-- The BUILD result registers and buffers hold the symbol y of version v at level lv, every byte written (10_state R31). -/
structure HoldsSymbol (lv : Level) (v : Nat) (y : Symbol) (t : State) : Prop where
  build : t.build = y.regs
  dcw : t.readBytes (Window.base .dcwBuf) (dataCw v lv) = y.dcw
  dcwListed : t.Listed (Window.base .dcwBuf) (dataCw v lv)
  cw : t.readBytes (Window.base .cwBuf) (totalCw v) = y.cw
  cwListed : t.Listed (Window.base .cwBuf) (totalCw v)
  matrix : ∀ r c, r < sideOf v → c < sideOf v →
    t.byteAt (Window.base .matrixBuf + 177 * r + c) = y.matrix.moduleByte r c
      ∧ (Memory.get? t.mem (Window.base .matrixBuf + 177 * r + c)).isSome = true

theorem symbolInv_iff (s : State) : SymbolInv s ↔ (s.status.symv = true →
    ∃ ss lv v y, selectVersion ss lv = some v ∧ encodeSymbol ss lv v = some y ∧ HoldsSymbol lv v y s) := by
  constructor
  · intro h hs
    obtain ⟨ss, lv, v, y, hv, hy, hb, hd, hdl, hc, hcl, hm⟩ := h hs
    exact ⟨ss, lv, v, y, hv, hy, hb, hd, hdl, hc, hcl, hm⟩
  · intro h hs
    obtain ⟨ss, lv, v, y, hv, hy, hb, hd, hdl, hc, hcl, hm⟩ := h hs
    exact ⟨ss, lv, v, y, hv, hy, hb, hd, hdl, hc, hcl, hm⟩

section
variable {lv : Level} {v : Nat} {y : Symbol}

/-- Writes outside the BUILD result buffers keep the symbol they hold. -/
theorem HoldsSymbol.of_writesOnly {s t : State} {lo hi : Nat} (h : HoldsSymbol lv v y s) (hv : v ≤ 40)
    (hbuild : t.build = s.build) (hw : WritesOnly s t lo hi) (ho : hi ≤ 0x40000 ∨ 0x57A61 ≤ lo) : HoldsSymbol lv v y t := by
  obtain ⟨hd, hc⟩ := codeword_bounds hv lv
  refine ⟨hbuild.trans h.build, ?_, hw.listed ?_ h.dcwListed, ?_, hw.listed ?_ h.cwListed, fun r c hr hcc => ?_⟩
  · rw [hw.readBytes (by simp only [Window.base]; omega), h.dcw]
  · simp only [Window.base]; omega
  · rw [hw.readBytes (by simp only [Window.base]; omega), h.cw]
  · simp only [Window.base]; omega
  · have ha : Window.base .matrixBuf + 177 * r + c < lo ∨ hi ≤ Window.base .matrixBuf + 177 * r + c := by
      simp only [Window.base]
      rw [sideOf] at hr hcc
      omega
    rw [hw.byteAt ha, hw.cells _ ha]
    exact h.matrix r c hr hcc

/-- A BUILD that succeeds leaves its symbol (44_mask_penalty R251). -/
theorem State.writeSymbol_holds (s : State) (h : SymbolShape lv v y) : HoldsSymbol lv v y (s.writeSymbol y) := by
  obtain ⟨hdlen, hclen⟩ := h.codewords_fit
  have hside := h.side_le
  let u1 := s.writeBytes (Window.base .dcwBuf) y.dcw
  let u2 := u1.writeBytes (Window.base .cwBuf) y.cw
  have hw2 : WritesOnly u1 u2 0x41000 0x50000 :=
    (u1.writeBytes_writesOnly _ _).mono le_rfl (by simp only [Window.base]; omega)
  have hw3 : WritesOnly u2 (s.writeSymbol y) 0x50000 0x57A61 := by
    have hw := u2.writeMatrix_writesOnly hside
    exact ⟨by simp [u2, u1], hw.cells⟩
  have hw13 : WritesOnly u1 (s.writeSymbol y) 0x41000 0x57A61 :=
    (hw2.mono le_rfl (by decide)).trans (hw3.mono (by decide) le_rfl)
  refine ⟨s.writeSymbol_build y, ?_, ?_, ?_, ?_, fun r c hr hc => ⟨?_, ?_⟩⟩
  · rw [hw13.readBytes (by rw [← h.dcw]; simp only [Window.base]; omega), ← h.dcw]
    exact s.readBytes_writeBytes _ _
  · refine hw13.listed (by rw [← h.dcw]; simp only [Window.base]; omega) ?_
    rw [← h.dcw]
    exact s.listed_writeBytes _ _
  · rw [hw3.readBytes (by rw [← h.cw]; simp only [Window.base]; omega), ← h.cw]
    exact u1.readBytes_writeBytes _ _
  · refine hw3.listed (by rw [← h.cw]; simp only [Window.base]; omega) ?_
    rw [← h.cw]
    exact u1.listed_writeBytes _ _
  · rw [State.byteAt_congr (s := u2.writeMatrix y.matrix) (s.writeSymbol_mem y) (by simp [u2, u1])]
    rw [← h.side] at hr hc
    exact (u2.byteAt_writeMatrix y.matrix hside _).1 r c hr hc rfl
  · rw [← h.side] at hr hc
    exact u2.writeMatrix_listed y.matrix r hr c hc

end

theorem SymbolInv.of_symv_false {s : State} (h : s.status.symv = false) : SymbolInv s :=
  fun hv => absurd (h.symm.trans hv) Bool.false_ne_true

/-- Writes outside the BUILD result buffers, where no BUILD result register changes, keep SYMV honest. -/
theorem SymbolInv.of_writesOnly {s t : State} {lo hi : Nat} (h : SymbolInv s) (hv : t.status.symv = s.status.symv)
    (hbuild : t.build = s.build) (hw : WritesOnly s t lo hi) (ho : hi ≤ 0x40000 ∨ 0x57A61 ≤ lo) : SymbolInv t := by
  rw [symbolInv_iff] at *
  intro ht
  obtain ⟨ss, lv, v, y, hsel, hy, hh⟩ := h (hv ▸ ht)
  exact ⟨ss, lv, v, y, hsel, hy, hh.of_writesOnly (selectVersion_some hsel).2.1 hbuild hw ho⟩

/-- What BUILD leaves where SYMV = 1 is a symbol (44_mask_penalty R250 to R252). -/
theorem buildStage_symbolInv (s : State) : SymbolInv (buildStage s).state := by
  obtain ⟨-, h⟩ | ⟨-, -, h⟩ | ⟨segs, -, -, h⟩ := buildStage_cases s <;> rw [h]
  · exact .of_symv_false rfl
  · exact .of_symv_false rfl
  · obtain ⟨-, h⟩ | ⟨v, -, -, h⟩ | ⟨v, y, hv, hy, h⟩ := buildSegments_cases s.buildStart (segs.map s.segData) s.level <;>
      rw [h]
    · exact .of_symv_false rfl
    · exact .of_symv_false rfl
    · exact (symbolInv_iff _).mpr fun _ =>
        ⟨_, s.level, v, y, hv, hy, State.writeSymbol_holds _ (encodeSymbol_shape hv hy)⟩

/-- A host's byte write changes no result and neither SYMV nor PIXV (20_memory R67). -/
theorem State.writeBufByte_keeps (s : State) (off : Nat) (b : Byte) : let t := s.writeBufByte off b
    t.cfg = s.cfg ∧ t.build = s.build ∧ t.raster = s.raster ∧ t.status.symv = s.status.symv
      ∧ t.status.pixv = s.status.pixv := by
  rw [State.writeBufByte_eq]
  simp

/-- A register write changes no result and neither SYMV nor PIXV (20_memory R67). -/
theorem State.storeReg_keeps (s : State) (r : Reg) (v : Word) : let t := s.storeReg r v
    t.cfg = s.cfg ∧ t.build = s.build ∧ t.raster = s.raster ∧ t.status.symv = s.status.symv
      ∧ t.status.pixv = s.status.pixv := by
  rw [State.storeReg_eq]
  simp

theorem State.storeReg_writesOnly (s : State) (r : Reg) (v : Word) : WritesOnly s (s.storeReg r v) 0 0 :=
  ⟨by rw [State.storeReg_eq], fun _ _ => by rw [State.storeReg_mem]⟩

theorem SameData.writesOnly {s t : State} (h : SameData s t) : WritesOnly s t 0 0 :=
  ⟨h.epoch, fun _ _ => by rw [h.mem]⟩

/-- BUILD sets SYMV for the symbol it writes; every other operation writes elsewhere. -/
theorem symbolInv_dataInvariant : DataInvariant SymbolInv where
  congr _ h hd := h.of_writesOnly hd.symv hd.build hd.writesOnly (by decide)
  reset _ _ := .of_symv_false rfl
  storeReg {s} r v _ h := by
    obtain ⟨-, hbuild, -, hv, -⟩ := s.storeReg_keeps r v
    exact h.of_writesOnly hv hbuild (s.storeReg_writesOnly r v) (by decide)
  writeBufByte {s} off b hc h := by
    obtain ⟨-, hbuild, -, hv, -⟩ := s.writeBufByte_keeps off b
    exact h.of_writesOnly hv hbuild (State.writeBufByte_writesOnly hc off b) (by decide)
  segment {s} hc h := by
    obtain ⟨hbuild, -, hv, -⟩ := segmentStage_keeps s
    exact h.of_writesOnly hv hbuild (segmentStage_writesOnly hc) (by decide)
  build {s} _ _ := buildStage_symbolInv s
  raster {s} hc h := by
    obtain ⟨-, hbuild, -, hv⟩ := rasterStage_keeps s
    exact h.of_writesOnly hv hbuild (rasterStage_writesOnly hc) (by decide)
  rsEncode {s} _ h := by
    obtain ⟨-, hbuild, -, hst⟩ := rsEncodeStage_keeps s
    exact h.of_writesOnly (congrArg _ hst) hbuild (rsEncodeStage_writesOnly s) (by decide)

/-- Settles O58: no operation but BUILD writes to the BUILD result buffers, and BUILD sets SYMV for the symbol it writes. -/
theorem stepKeepsSymbol : Obligations.StepKeepsSymbol :=
  fun _ _ hc h hstep => symbolInv_dataInvariant.step hc h hstep

/-! ### PIXV: the image -/

/-- MODULE_PX, OUT_DIM and PIXEL_BUF hold the image of MATRIX_BUF for the width w, margin m and colours dc and lc, every byte
written (10_state R32). -/
structure HoldsImage (w m : Nat) (dc lc : Word) (s : State) : Prop where
  modulePx : s.raster.modulePx.toNat = modulePixels w s.rasterN m
  outDim : s.raster.outDim.toNat = outDim w s.rasterN m
  listed : s.Listed (Window.base .pixelBuf) (4 * (Machine.outDim w s.rasterN m * Machine.outDim w s.rasterN m))
  pixels : s.readBytes (Window.base .pixelBuf) (4 * (Machine.outDim w s.rasterN m * Machine.outDim w s.rasterN m))
    = (pixelWords s.rasterN m (modulePixels w s.rasterN m) (Machine.outDim w s.rasterN m)
        (s.matrixDark s.rasterN) dc lc).flatMap fun x => bytesLE 4 x.toNat

theorem imageInv_iff (s : State) : ImageInv s ↔ (s.status.pixv = true →
    s.status.symv = true ∧ ∃ w m dc lc, 1 ≤ w ∧ w < 65536 ∧ m < 256
      ∧ outDim w s.rasterN m * outDim w s.rasterN m ≤ s.cfg.pixMax ∧ HoldsImage w m dc lc s) := by
  constructor
  · intro h hs
    obtain ⟨hv, w, m, dc, lc, h1, h2, hm, hmp, hdim, hfit, hl, hp⟩ := h hs
    exact ⟨hv, w, m, dc, lc, h1, h2, hm, hfit, hmp, hdim, hl, hp⟩
  · intro h hs
    obtain ⟨hv, w, m, dc, lc, h1, h2, hm, hfit, hmp, hdim, hl, hp⟩ := h hs
    exact ⟨hv, w, m, dc, lc, h1, h2, hm, hmp, hdim, hfit, hl, hp⟩

/-- The DARK bits are those of two states that agree on the module bytes (45_rasterizer R270). -/
theorem State.matrixDark_congr {s t : State} {n : Nat}
    (h : ∀ r c, r < n → c < n → t.byteAt (0x50000 + 177 * r + c) = s.byteAt (0x50000 + 177 * r + c)) :
    t.matrixDark n = s.matrixDark n := by
  unfold State.matrixDark
  congr 1
  refine List.flatMap_congr fun r hr => ?_
  exact congrArg (List.map _) (State.readBytes_congr fun c hc => h r c (List.mem_range.mp hr) hc)

/-- A write below MATRIX_BUF, or above every module byte a SIDE of 8 bits can name, keeps the DARK bits. -/
theorem WritesOnly.matrixDark {s t : State} {lo hi n : Nat} (hw : WritesOnly s t lo hi) (hn : n < 256)
    (ho : hi ≤ 0x50000 ∨ 0x1000000 ≤ lo) : t.matrixDark n = s.matrixDark n :=
  State.matrixDark_congr fun r c hr hc => hw.byteAt (by omega)

theorem State.rasterN_lt (s : State) : s.rasterN < 256 := s.build.side.isLt

/-- Writes below MATRIX_BUF, where SIDE and the RASTER results stay, keep the image. -/
theorem HoldsImage.of_writesOnly {w m : Nat} {dc lc : Word} {s t : State} {lo hi : Nat} (h : HoldsImage w m dc lc s)
    (hside : t.rasterN = s.rasterN) (hraster : t.raster = s.raster) (hw : WritesOnly s t lo hi) (ho : hi ≤ 0x50000) :
    HoldsImage w m dc lc t where
  modulePx := by rw [hraster, hside, h.modulePx]
  outDim := by rw [hraster, hside, h.outDim]
  listed := by
    rw [hside]
    exact hw.listed (by simp only [Window.base]; omega) h.listed
  pixels := by
    rw [hside, hw.readBytes (by simp only [Window.base]; omega), hw.matrixDark s.rasterN_lt (.inl ho), h.pixels]

/-- MODULE_PX and OUT_DIM fit their 16-bit fields (10_state R45). -/
theorem raster_sizes_fit {w n m : Nat} (hw : w < 65536) (hn : n < 256) (hm : m < 256) :
    modulePixels w n m < 65536 ∧ outDim w n m < 65536 := by
  have hdiv : w / imageModules n m ≤ w := Nat.div_le_self _ _
  have hmul : w / imageModules n m * imageModules n m ≤ w := Nat.div_mul_le_self _ _
  unfold outDim modulePixels
  refine ⟨by omega, ?_⟩
  obtain h | h := Nat.le_total 1 (w / imageModules n m)
  · rw [Nat.max_eq_right h]
    omega
  · rw [Nat.max_eq_left h, imageModules]
    omega

/-- The state RASTER leaves where its checks pass (45_rasterizer R275). -/
def State.rastered (s : State) : State :=
  { s.rasterStart.writeRasterSize.writeBytes (Window.base .pixelBuf) (s.image.flatMap fun w => bytesLE 4 w.toNat) with
    status := { s.status with pixv := true } }

/-- MODULE_PX and OUT_DIM hold the sizes computed (45_rasterizer R271, R272). -/
theorem State.writeRasterSize_toNat (s : State) :
    s.writeRasterSize.raster.modulePx.toNat = modulePixels s.rasterW s.rasterN s.rasterM
      ∧ s.writeRasterSize.raster.outDim.toNat = outDim s.rasterW s.rasterN s.rasterM := by
  obtain ⟨hmp, hdim⟩ := raster_sizes_fit (w := s.rasterW) (m := s.rasterM) s.conf.pixelWidth.isLt s.rasterN_lt
    s.conf.margin.isLt
  exact ⟨Nat.mod_eq_of_lt hmp, Nat.mod_eq_of_lt hdim⟩

theorem State.imageBytes_length (s : State) : (s.image.flatMap fun w => bytesLE 4 w.toNat).length
    = 4 * (outDim s.rasterW s.rasterN s.rasterM * outDim s.rasterW s.rasterN s.rasterM) := by
  rw [pixelBytes_length, s.image_length]

/-- PIXEL_BUF reads as the image RASTER computes (45_rasterizer R274). -/
theorem State.rastered_pixels (s : State) :
    s.rastered.readBytes (Window.base .pixelBuf)
        (4 * (outDim s.rasterW s.rasterN s.rasterM * outDim s.rasterW s.rasterN s.rasterM))
      = s.image.flatMap fun w => bytesLE 4 w.toNat := by
  rw [← s.imageBytes_length]
  exact State.readBytes_writeBytes _ _ _

/-- RASTER's pixels leave the DARK bits (45_rasterizer R275). -/
theorem State.rastered_matrixDark (s : State) : s.rastered.matrixDark s.rasterN = s.matrixDark s.rasterN := by
  have hw := s.rasterStart.writeRasterSize.writeBytes_writesOnly (Window.base .pixelBuf)
    (s.image.flatMap fun w => bytesLE 4 w.toNat)
  exact WritesOnly.matrixDark ⟨hw.epoch, hw.cells⟩ s.rasterN_lt (.inr le_rfl)

/-- RASTER leaves the image of the matrix for the width, margin and colours in the registers (45_rasterizer R275). -/
theorem State.rastered_holds (s : State) :
    HoldsImage s.rasterW s.rasterM s.conf.darkColor s.conf.lightColor s.rastered := by
  obtain ⟨hmp, hdim⟩ := s.writeRasterSize_toNat
  have hN : s.rastered.rasterN = s.rasterN := rfl
  refine ⟨hmp, hdim, ?_, ?_⟩
  · rw [hN, ← s.imageBytes_length]
    exact State.listed_writeBytes _ _ _
  · rw [hN, s.rastered_matrixDark]
    exact s.rastered_pixels

theorem ImageInv.of_pixv_false {s : State} (h : s.status.pixv = false) : ImageInv s :=
  fun hv => absurd (h.symm.trans hv) Bool.false_ne_true

/-- Writes below MATRIX_BUF, where no BUILD or RASTER result register changes, keep PIXV honest. -/
theorem ImageInv.of_writesOnly {s t : State} {lo hi : Nat} (h : ImageInv s) (hcfg : t.cfg = s.cfg)
    (hbuild : t.build = s.build) (hraster : t.raster = s.raster) (hsymv : t.status.symv = s.status.symv)
    (hpixv : t.status.pixv = s.status.pixv) (hw : WritesOnly s t lo hi) (ho : hi ≤ 0x50000) : ImageInv t := by
  rw [imageInv_iff] at *
  have hside : t.rasterN = s.rasterN := congrArg (fun b : BuildRegs => b.side.toNat) hbuild
  intro ht
  obtain ⟨hs, w, m, dc, lc, h1, h2, hm, hfit, hh⟩ := h (hpixv ▸ ht)
  exact ⟨hsymv.trans hs, w, m, dc, lc, h1, h2, hm, by rw [hside, hcfg]; exact hfit, hh.of_writesOnly hside hraster hw ho⟩

/-- What RASTER leaves where PIXV = 1 is an image of the matrix (45_rasterizer R275, R276). -/
theorem rasterStage_imageInv (s : State) : ImageInv (rasterStage s).state := by
  obtain ⟨-, h⟩ | ⟨-, -, -, h⟩ | ⟨hv, hw, hfit, h⟩ := rasterStage_cases s <;> rw [h]
  · exact .of_pixv_false rfl
  · exact .of_pixv_false rfl
  · exact (imageInv_iff _).mpr fun _ => ⟨hv, s.rasterW, s.rasterM, s.conf.darkColor, s.conf.lightColor, by omega,
      s.conf.pixelWidth.isLt, s.conf.margin.isLt, hfit, s.rastered_holds⟩

/-- BUILD clears PIXV, RASTER sets it for the image it writes, and every other operation writes below MATRIX_BUF. -/
theorem imageInv_dataInvariant : DataInvariant ImageInv where
  congr _ h hd := h.of_writesOnly hd.cfg hd.build hd.raster hd.symv hd.pixv hd.writesOnly (by decide)
  reset _ _ := .of_pixv_false rfl
  storeReg {s} r v _ h := by
    obtain ⟨hcfg, hbuild, hraster, hsymv, hpixv⟩ := s.storeReg_keeps r v
    exact h.of_writesOnly hcfg hbuild hraster hsymv hpixv (s.storeReg_writesOnly r v) (by decide)
  writeBufByte {s} off b hc h := by
    obtain ⟨hcfg, hbuild, hraster, hsymv, hpixv⟩ := s.writeBufByte_keeps off b
    exact h.of_writesOnly hcfg hbuild hraster hsymv hpixv (State.writeBufByte_writesOnly hc off b) (by decide)
  segment {s} hc h := by
    obtain ⟨hbuild, hraster, hsymv, hpixv⟩ := segmentStage_keeps s
    exact h.of_writesOnly (segmentStage_frame s).cfg hbuild hraster hsymv hpixv (segmentStage_writesOnly hc) (by decide)
  build {s} _ _ := by
    obtain ⟨-, -, -, hpixv⟩ := buildStage_keeps s
    exact .of_pixv_false hpixv
  raster {s} _ _ := rasterStage_imageInv s
  rsEncode {s} _ h := by
    obtain ⟨-, hbuild, hraster, hst⟩ := rsEncodeStage_keeps s
    exact h.of_writesOnly (rsEncodeStage_frame s).cfg hbuild hraster (congrArg _ hst) (congrArg _ hst)
      (rsEncodeStage_writesOnly s) (by decide)

/-- Settles O59: no operation but RASTER and BUILD writes to MATRIX_BUF or above it, BUILD clears PIXV, and RASTER sets it for
the image it writes. -/
theorem stepKeepsImage : Obligations.StepKeepsImage :=
  fun _ _ hc h hstep => imageInv_dataInvariant.step hc h hstep

/-- Settles O54: reset gives each invariant of the data, and the control state by evaluation. -/
theorem resetMeetsInvariants : Obligations.ResetMeetsInvariants :=
  ⟨by decide, ⟨by decide, rfl, by decide, by decide, by decide, by decide⟩, Memory.nil_wf,
    (memoryInv_dataInvariant.reset {} 0).2, segmentTableInv_dataInvariant.reset {} 0, symbolInv_dataInvariant.reset {} 0,
    imageInv_dataInvariant.reset {} 0⟩

end Sys2Proof.Machine
end

section
/-! ## GENERATE is a function of the configuration and the text

Every selected version encodes, so no free value is drawn; then each ending of GENERATE is given by the parameters, the
configuration registers and the text alone. -/

namespace Sys2Proof.Machine

/-! ### The number of codewords -/

/-- Dealing out gives lists of the lengths asked for, where there are enough codewords (42_reed_solomon R185). -/
theorem dealOut_lengths (lens : List Nat) (d : List Byte) (h : lens.sum ≤ d.length) :
    (dealOut lens d).map List.length = lens := by
  induction lens generalizing d with
  | nil => rfl
  | cons n rest ih =>
    rw [List.sum_cons] at h
    rw [dealOut, List.map_cons, ih _ (by rw [List.length_drop]; omega), List.length_take, Nat.min_eq_left (by omega)]

/-- Round i of the interleaving takes one codeword from each list longer than i. -/
theorem round_length (xs : List (List Byte)) (i : Nat) :
    (xs.filterMap fun x => x[i]?).length + (xs.map fun x => min x.length i).sum
      = (xs.map fun x => min x.length (i + 1)).sum := by
  induction xs with
  | nil => rfl
  | cons x rest ih =>
    rw [List.filterMap_cons, List.map_cons, List.map_cons, List.sum_cons, List.sum_cons, ← ih]
    obtain hi | hi := Nat.lt_or_ge i x.length
    · rw [List.getElem?_eq_getElem hi]
      simp only [List.length_cons]
      omega
    · rw [List.getElem?_eq_none hi]
      simp only
      omega

/-- So many rounds take from each list at most so many codewords (42_reed_solomon R186). -/
theorem roundRobin_length_min (rounds : Nat) (xs : List (List Byte)) :
    (roundRobin rounds xs).length = (xs.map fun x => min x.length rounds).sum := by
  induction rounds with
  | zero => simp [roundRobin]
  | succ k ih =>
    rw [← round_length, ← ih]
    simp [roundRobin, List.range_succ, Nat.add_comm]

/-- Rounds enough for the longest list take every codeword (42_reed_solomon R186). -/
theorem roundRobin_length {rounds : Nat} {xs : List (List Byte)} (h : ∀ n ∈ xs.map List.length, n ≤ rounds) :
    (roundRobin rounds xs).length = (xs.map List.length).sum := by
  rw [roundRobin_length_min]
  refine congrArg List.sum (List.map_congr_left fun x hx => Nat.min_eq_left (h _ (List.mem_map_of_mem hx)))

/-- The block split of every version and level holds DATA data codewords and TOTAL codewords (42_reed_solomon R184). -/
theorem block_sums {v : Nat} (h1 : 1 ≤ v) (h2 : v ≤ 40) (lv : Level) :
    (blockDataLens v lv).sum = dataCw v lv
      ∧ (blockDataLens v lv).sum + (blockDataLens v lv).length * ecPerBlock v lv = totalCw v := by
  have h : ∀ u : Fin 41, 1 ≤ u.val → ∀ k : Fin 4, let lev := [Level.l, .m, .q, .h].getD k.val .l
      numShort u lev * shortData u lev + numLong u lev * (shortData u lev + 1) = dataCw u lev
        ∧ dataCw u lev + (numShort u lev + numLong u lev) * ecPerBlock u lev = totalCw u := by decide +kernel
  have hu := h ⟨v, by omega⟩ h1
  have hlv : numShort v lv * shortData v lv + numLong v lv * (shortData v lv + 1) = dataCw v lv
      ∧ dataCw v lv + (numShort v lv + numLong v lv) * ecPerBlock v lv = totalCw v := by
    cases lv
    exacts [hu 0, hu 1, hu 2, hu 3]
  simpa [blockDataLens, hlv.1] using hlv

/-- No block has more data codewords than there are data rounds (42_reed_solomon R184, R186). -/
theorem blockDataLens_le {v : Nat} {lv : Level} {n : Nat} (h : n ∈ blockDataLens v lv) : n ≤ shortData v lv + 1 := by
  simp only [blockDataLens, List.mem_append, List.mem_replicate] at h
  omega

/-- The final codeword sequence of DATA codewords has TOTAL codewords (42_reed_solomon R187). -/
theorem finalCodewords_length {d : List Byte} {v : Nat} {lv : Level} (h1 : 1 ≤ v) (h2 : v ≤ 40)
    (hd : d.length = dataCw v lv) : (finalCodewords d v lv).length = totalCw v := by
  obtain ⟨hdata, htotal⟩ := block_sums h1 h2 lv
  have hdatas : ((splitBlocks d v lv).map Block.data).map List.length = blockDataLens v lv := by
    have he : (splitBlocks d v lv).map Block.data = dealOut (blockDataLens v lv) d := by
      simp [splitBlocks, Function.comp_def]
    rw [he, dealOut_lengths _ _ (by omega)]
  have hecs : ((splitBlocks d v lv).map Block.ec).map List.length
      = List.replicate (blockDataLens v lv).length (ecPerBlock v lv) := by
    rw [← hdatas]
    simp [splitBlocks, Function.comp_def, rsEc_length, List.map_const']
  rw [finalCodewords, interleave, List.length_append, roundRobin_length, roundRobin_length, hdatas, hecs,
    List.sum_replicate, smul_eq_mul]
  · exact htotal
  · intro n hn
    rw [hecs] at hn
    exact (List.eq_of_mem_replicate hn).le
  · intro n hn
    rw [hdatas] at hn
    exact blockDataLens_le hn

/-- Every selected version encodes: placement never overflows (43_matrix_layout R227, 60_exceptions R303). -/
theorem encodeSymbol_isSome {ss : List SegData} {lv : Level} {v : Nat} (hv : selectVersion ss lv = some v) :
    ∃ y, encodeSymbol ss lv v = some y := by
  obtain ⟨h1, h2, hfit⟩ := selectVersion_some hv
  obtain ⟨m, hm⟩ := Laws.place_isSome _ v (layout v) h1 h2 (finalCodewords_length h1 h2 (dataCodewords_length hfit))
  exact ⟨_, Option.map_eq_some_iff.mpr ⟨m, hm, rfl⟩⟩

/-! ### The endings of GENERATE -/

/-- The segments of the text with their data bytes (40_segmenter R122). -/
def State.textSegments (s : State) : List SegData := (segmentText (s.textBytes 0 s.textLen)).map s.segData

/-- The bytes of a segment inside a text are a part of the text. -/
theorem State.segData_eq (s : State) {x : Segment} {n : Nat} (h : x.start + x.count ≤ n) :
    s.segData x = { mode := x.mode, bytes := ((s.textBytes 0 n).drop x.start).take x.count } := by
  have := s.readBytes_part (Window.base .textBuf) h
  simpa [State.segData, State.textBytes] using this

/-- The segments with their bytes depend on the text alone. -/
theorem segData_congr {s t : State} {n : Nat} (h : t.textBytes 0 n = s.textBytes 0 n) :
    (segmentText (s.textBytes 0 n)).map t.segData = (segmentText (s.textBytes 0 n)).map s.segData := by
  refine List.map_congr_left fun x hx => ?_
  have hin := segmentText_inside _ hx
  rw [State.textBytes_length] at hin
  rw [t.segData_eq hin, s.segData_eq hin, h]

/-- GENERATE of an empty text, or one longer than TEXT_MAX, ends at SEGMENT's checks (40_segmenter R131). -/
theorem generateStage_rejects {s : State} (h : s.textLen = 0 ∨ s.cfg.textMax < s.textLen) :
    generateStage s = .raised .invalidInput s.segmentStart := by
  obtain ⟨-, hs⟩ | ⟨h1, hn, -⟩ := segmentStage_cases s
  · rw [generateStage, hs]
    rfl
  · omega

/-- GENERATE of a text of legal length is BUILD of its segments, then RASTER (46_control R291). -/
theorem generateStage_legal {s : State} (hc : s.cfg.wellFormed = true) (h1 : 1 ≤ s.textLen)
    (hn : s.textLen ≤ s.cfg.textMax) :
    generateStage s = (buildSegments s.segmented.buildStart s.textSegments s.level).andThen rasterStage := by
  obtain ⟨h, -⟩ | ⟨-, -, hs⟩ := segmentStage_cases s
  · omega
  have hseg := (State.segmented_results hc hn).segments (by have := Config.wellFormed_bounds hc; omega)
  have hb : buildStage s.segmented = buildSegments s.segmented.buildStart s.textSegments s.level := by
    obtain ⟨hv, -⟩ | ⟨-, hnone, -⟩ | ⟨segs, -, hsome, he⟩ := buildStage_cases s.segmented
    · cases hv
    · rw [hseg] at hnone
      cases hnone
    · obtain rfl := Option.some.inj (hseg.symm.trans hsome)
      rw [he, segData_congr (State.segmented_text hc hn)]
      rfl
  rw [generateStage, hs, Stage.andThen_ok, ← hb]
  rfl

theorem buildSegments_tooLong (s : State) {ss : List SegData} {lv : Level} (hv : selectVersion ss lv = none) :
    buildSegments s ss lv = .raised .dataTooLong (s.reportTooLong ss lv) := by
  rw [buildSegments, hv]

theorem buildSegments_symbol (s : State) {ss : List SegData} {lv : Level} {v : Nat} {y : Symbol}
    (hv : selectVersion ss lv = some v) (hy : encodeSymbol ss lv v = some y) :
    buildSegments s ss lv = .ok (s.writeSymbol y) := by
  simp only [buildSegments, hv, hy]

theorem rasterStage_zeroWidth {s : State} (hw : s.rasterW = 0) : rasterStage s = .raised .invalidInput s.rasterStart := by
  simp [rasterStage, hw]

section
variable {s : State} (hv : s.status.symv = true)
include hv

theorem rasterStage_overflow (hw : s.rasterW ≠ 0)
    (hp : s.cfg.pixMax < outDim s.rasterW s.rasterN s.rasterM * outDim s.rasterW s.rasterN s.rasterM) :
    rasterStage s = .raised .bufferOverflow s.rasterStart.writeRasterSize := by
  simp [rasterStage, hv, hw, hp]

theorem rasterStage_fits (hw : s.rasterW ≠ 0)
    (hp : outDim s.rasterW s.rasterN s.rasterM * outDim s.rasterW s.rasterN s.rasterM ≤ s.cfg.pixMax) :
    rasterStage s = .ok s.rastered := by
  simp [rasterStage, hv, hw, Nat.not_lt.mpr hp, State.rastered]

end

/-! ### Equal inputs give equal results -/

/-- Two states that hold the same table read the same there. -/
theorem HoldsTable.readBytes_eq {segs : List Segment} {t1 t2 : State} (h1 : HoldsTable segs t1) (h2 : HoldsTable segs t2) :
    t2.readBytes 0x20000 (16 * t1.segCount.toNat) = t1.readBytes 0x20000 (16 * t1.segCount.toNat) := by
  rw [h1.count, h2.bytes, h1.bytes]

/-- Writes above SEG_TABLE keep the table of at most 8192 segments. -/
theorem HoldsTable.of_writesOnly {segs : List Segment} {s t : State} {lo hi : Nat} (h : HoldsTable segs s)
    (hlen : segs.length ≤ 8192) (hcount : t.segCount = s.segCount) (hw : WritesOnly s t lo hi) (ho : 0x40000 ≤ lo) :
    HoldsTable segs t :=
  ⟨hcount ▸ h.count, by rw [hw.readBytes (by omega), h.bytes], hw.listed (by omega) h.listed⟩

section
variable {lv : Level} {v : Nat} {y : Symbol}

/-- DATA_CW, TOTAL_CW and SIDE of a symbol (44_mask_penalty R251). -/
theorem SymbolShape.regs_toNat (h : SymbolShape lv v y) :
    y.regs.dataCw.toNat = dataCw v lv ∧ y.regs.totalCw.toNat = totalCw v ∧ y.regs.side.toNat = sideOf v := by
  obtain ⟨hd, hc⟩ := codeword_bounds h.version_le lv
  have hside : sideOf v ≤ 177 := h.side ▸ h.side_le
  simp only [Symbol.regs, h.version, h.level, BitVec.toNat_ofNat]
  omega

/-- Two states that hold the same symbol read the same where BUILD stores it. -/
theorem HoldsSymbol.readBytes_eq {t1 t2 : State} (hshape : SymbolShape lv v y) (h1 : HoldsSymbol lv v y t1)
    (h2 : HoldsSymbol lv v y t2) :
    t2.readBytes 0x40000 t1.build.dataCw.toNat = t1.readBytes 0x40000 t1.build.dataCw.toNat
      ∧ t2.readBytes 0x41000 t1.build.totalCw.toNat = t1.readBytes 0x41000 t1.build.totalCw.toNat
      ∧ ∀ r c, r < t1.build.side.toNat → c < t1.build.side.toNat →
          t2.byteAt (0x50000 + 177 * r + c) = t1.byteAt (0x50000 + 177 * r + c) := by
  obtain ⟨hd, hc, hs⟩ := hshape.regs_toNat
  rw [h1.build, hd, hc, hs]
  exact ⟨h2.dcw.trans h1.dcw.symm, h2.cw.trans h1.cw.symm, fun r c hr hcc =>
    (h2.matrix r c hr hcc).1.trans (h1.matrix r c hr hcc).1.symm⟩

end

/-- The image depends on the configuration registers, SIDE and the DARK bits (45_rasterizer R270). -/
theorem State.image_congr {s t : State} (hconf : t.conf = s.conf) (hbuild : t.build = s.build)
    (hdark : t.matrixDark s.rasterN = s.matrixDark s.rasterN) : t.image = s.image := by
  simp only [State.image, State.rasterW, State.rasterM, State.rasterN, hconf, hbuild] at hdark ⊢
  rw [hdark]

/-- RASTER of two states with equal parameters, configuration registers, BUILD registers and DARK bits, both with a valid
symbol, ends the same way with equal results (45_rasterizer R275, R276). -/
theorem rasterStage_congr {s t : State} (hcfg : t.cfg = s.cfg) (hconf : t.conf = s.conf) (hbuild : t.build = s.build)
    (hs : s.status.symv = true) (ht : t.status.symv = true) (hdark : t.matrixDark s.rasterN = s.matrixDark s.rasterN) :
    let x := rasterStage s
    let z := rasterStage t
    z.code = x.code ∧ z.state.raster = x.state.raster ∧ z.state.status.pixv = x.state.status.pixv
      ∧ (x.state.status.pixv = true →
          z.state.readBytes 0x1000000 (4 * (x.state.raster.outDim.toNat * x.state.raster.outDim.toNat))
            = x.state.readBytes 0x1000000 (4 * (x.state.raster.outDim.toNat * x.state.raster.outDim.toNat))) := by
  have hW : t.rasterW = s.rasterW := congrArg (fun c : ConfRegs => c.pixelWidth.toNat) hconf
  have hM : t.rasterM = s.rasterM := congrArg (fun c : ConfRegs => c.margin.toNat) hconf
  have hN : t.rasterN = s.rasterN := congrArg (fun b : BuildRegs => b.side.toNat) hbuild
  have hsize : t.rasterStart.writeRasterSize.raster = s.rasterStart.writeRasterSize.raster := by
    show RasterRegs.mk (BitVec.ofNat 16 (modulePixels t.rasterW t.rasterN t.rasterM))
        (BitVec.ofNat 16 (outDim t.rasterW t.rasterN t.rasterM)) = _
    rw [hW, hM, hN]
    rfl
  obtain ⟨h, he⟩ | ⟨-, hw, hp, he⟩ | ⟨-, hw, hp, he⟩ := rasterStage_cases s
  · have hw : s.rasterW = 0 := h.resolve_left (by simp [hs])
    rw [he, rasterStage_zeroWidth (hW.trans hw)]
    exact ⟨rfl, rfl, rfl, fun hv => absurd hv (by simp)⟩
  · rw [he, rasterStage_overflow ht (by rwa [hW]) (by rwa [hW, hM, hN, hcfg])]
    exact ⟨rfl, hsize, rfl, fun hv => absurd hv (by simp)⟩
  · rw [rasterStage_fits hs hw hp, rasterStage_fits ht (by rwa [hW]) (by rwa [hW, hM, hN, hcfg])]
    refine ⟨rfl, hsize, rfl, fun _ => ?_⟩
    have hdim : s.rastered.raster.outDim.toNat = outDim s.rasterW s.rasterN s.rasterM := s.writeRasterSize_toNat.2
    have hpix := t.rastered_pixels
    rw [hW, hM, hN, State.image_congr hconf hbuild hdark, ← s.rastered_pixels, ← hdim] at hpix
    exact hpix

/-- The state of GENERATE before RASTER, y being the symbol of the text (46_control R291). -/
def State.built (s : State) (y : Symbol) : State := s.segmented.buildStart.writeSymbol y

section
variable {s : State} {v : Nat} {y : Symbol} (hc : s.cfg.wellFormed = true) (hn : s.textLen ≤ s.cfg.textMax)
  (hshape : SymbolShape s.level v y)
include hc hn hshape

/-- Before RASTER, GENERATE holds the table of the text (46_control R291). -/
theorem State.built_table : HoldsTable (segmentText (s.textBytes 0 s.textLen)) (s.built y) :=
  (State.segmented_holds hc hn).of_writesOnly (segments_fit hc hn).2 (by simp [State.built])
    (WritesOnly.trans (t := s.segmented.buildStart) ⟨rfl, fun _ _ => rfl⟩ (State.writeSymbol_writesOnly _ hshape)) le_rfl

/-- GENERATE leaves the table of the text and its symbol, however its RASTER ends (46_control R291). -/
theorem State.built_rastered_holds : HoldsTable (segmentText (s.textBytes 0 s.textLen)) (rasterStage (s.built y)).state
    ∧ HoldsSymbol s.level v y (rasterStage (s.built y)).state := by
  obtain ⟨hcount, hbuild, -, -⟩ := rasterStage_keeps (s.built y)
  have hw : WritesOnly (s.built y) (rasterStage (s.built y)).state 0x1000000 0x2000000 :=
    rasterStage_writesOnly (by simpa [State.built, State.segmented] using hc)
  exact ⟨(State.built_table hc hn hshape).of_writesOnly (segments_fit hc hn).2 hcount hw (by decide),
    (State.writeSymbol_holds _ hshape).of_writesOnly hshape.version_le hbuild hw (by decide)⟩

end

/-- Two states that hold the same symbol agree on its DARK bits. -/
theorem HoldsSymbol.matrixDark_eq {lv : Level} {v : Nat} {y : Symbol} {t1 t2 : State} (hshape : SymbolShape lv v y)
    (h1 : HoldsSymbol lv v y t1) (h2 : HoldsSymbol lv v y t2) : t2.matrixDark t1.rasterN = t1.matrixDark t1.rasterN :=
  State.matrixDark_congr (h1.readBytes_eq hshape h2).2.2

/-- The states have equal parameters, configuration registers and texts. -/
structure SameInput (s t : State) : Prop where
  cfg : t.cfg = s.cfg
  conf : t.conf = s.conf
  text : t.textBytes 0 s.textLen = s.textBytes 0 s.textLen

/-- t has the results s has, each buffer where its validity bit is set (10_state R55). -/
def SameResults (s t : State) : Prop :=
  t.errcode = s.errcode ∧ t.segCount = s.segCount ∧ t.status.segv = s.status.segv
    ∧ (s.status.segv = true →
        t.readBytes 0x20000 (16 * s.segCount.toNat) = s.readBytes 0x20000 (16 * s.segCount.toNat)
        ∧ t.build = s.build ∧ t.status.symv = s.status.symv ∧ t.status.pixv = s.status.pixv
        ∧ (s.status.symv = true →
            t.readBytes 0x40000 s.build.dataCw.toNat = s.readBytes 0x40000 s.build.dataCw.toNat
            ∧ t.readBytes 0x41000 s.build.totalCw.toNat = s.readBytes 0x41000 s.build.totalCw.toNat
            ∧ (∀ r c, r < s.build.side.toNat → c < s.build.side.toNat →
                t.byteAt (0x50000 + 177 * r + c) = s.byteAt (0x50000 + 177 * r + c))
            ∧ t.raster = s.raster)
        ∧ (s.status.pixv = true →
            t.readBytes 0x1000000 (4 * (s.raster.outDim.toNat * s.raster.outDim.toNat))
              = s.readBytes 0x1000000 (4 * (s.raster.outDim.toNat * s.raster.outDim.toNat))))

namespace SameInput

variable {s t : State} (h : SameInput s t)
include h

theorem textLen_eq : t.textLen = s.textLen := congrArg (fun c : ConfRegs => c.textLen.toNat) h.conf

theorem level_eq : t.level = s.level := congrArg (fun c : ConfRegs => Level.ofBits c.eclReq) h.conf

theorem segmentText_eq : segmentText (t.textBytes 0 t.textLen) = segmentText (s.textBytes 0 s.textLen) := by
  rw [h.textLen_eq, h.text]

theorem textSegments_eq : t.textSegments = s.textSegments := by
  rw [State.textSegments, h.segmentText_eq, segData_congr h.text, State.textSegments]

theorem segCount_eq : t.segmented.segCount = s.segmented.segCount :=
  congrArg (fun l : List Segment => BitVec.ofNat 16 l.length) h.segmentText_eq

variable (hc : s.cfg.wellFormed = true) (hn : s.textLen ≤ s.cfg.textMax)
include hc hn

theorem legal : t.cfg.wellFormed = true ∧ t.textLen ≤ t.cfg.textMax := by
  rw [h.cfg, h.textLen_eq]
  exact ⟨hc, hn⟩

/-- Both texts fit no version: equal tables and reports (44_mask_penalty R252). -/
theorem results_tooLong (ss : List SegData) (lv : Level) :
    SameResults ((s.segmented.buildStart.reportTooLong ss lv).complete .dataTooLong)
      ((t.segmented.buildStart.reportTooLong ss lv).complete .dataTooLong) := by
  obtain ⟨hc2, hn2⟩ := h.legal hc hn
  have htable := (State.segmented_holds hc hn).readBytes_eq (h.segmentText_eq ▸ State.segmented_holds hc2 hn2)
  exact ⟨rfl, h.segCount_eq, rfl, fun _ =>
    ⟨htable, rfl, rfl, rfl, fun hv => absurd hv (by simp), fun hv => absurd hv (by simp)⟩⟩

/-- Both texts have one symbol: equal tables, symbols and images, however RASTER ends (46_control R291). -/
theorem results_symbol {v : Nat} {y : Symbol} (hshape : SymbolShape s.level v y) :
    SameResults (rasterStage (s.built y)).finish (rasterStage (t.built y)).finish := by
  obtain ⟨hc2, hn2⟩ := h.legal hc hn
  obtain ⟨htable1, hsymbol1⟩ := State.built_rastered_holds hc hn hshape
  obtain ⟨htable2, hsymbol2⟩ := State.built_rastered_holds hc2 hn2 (h.level_eq ▸ hshape)
  rw [h.segmentText_eq] at htable2
  rw [h.level_eq] at hsymbol2
  have hdark : (t.built y).matrixDark (s.built y).rasterN = (s.built y).matrixDark (s.built y).rasterN :=
    HoldsSymbol.matrixDark_eq hshape (State.writeSymbol_holds _ hshape) (State.writeSymbol_holds _ hshape)
  obtain ⟨hcode, hraster, hpixv, hpixels⟩ := rasterStage_congr (s := s.built y) (t := t.built y)
    (by simpa [State.built, State.segmented] using h.cfg) (by simpa [State.built, State.segmented] using h.conf)
    (by simp [State.built]) (by simp [State.built]) (by simp [State.built]) hdark
  obtain ⟨hcount1, -, hsegv1, hsymv1⟩ := rasterStage_keeps (s.built y)
  obtain ⟨hcount2, -, hsegv2, hsymv2⟩ := rasterStage_keeps (t.built y)
  have htable := htable1.readBytes_eq htable2
  obtain ⟨hdcw, hcw, hmatrix⟩ := hsymbol1.readBytes_eq hshape hsymbol2
  have hcount : (rasterStage (t.built y)).state.segCount = (rasterStage (s.built y)).state.segCount := by
    rw [hcount1, hcount2]
    simpa [State.built] using h.segCount_eq
  have hsegv : (rasterStage (t.built y)).state.status.segv = (rasterStage (s.built y)).state.status.segv := by
    rw [hsegv1, hsegv2]
    simp [State.built, State.segmented]
  have hsymv : (rasterStage (t.built y)).state.status.symv = (rasterStage (s.built y)).state.status.symv := by
    rw [hsymv1, hsymv2]
    simp [State.built]
  rw [Stage.finish_eq, Stage.finish_eq]
  exact ⟨hcode, hcount, hsegv, fun _ => ⟨htable, hsymbol2.build.trans hsymbol1.build.symm, hsymv, hpixv,
    fun _ => ⟨hdcw, hcw, hmatrix, hraster⟩, hpixels⟩⟩

end SameInput

/-- Settles O34: the stages of GENERATE take the same branches on equal inputs, and each result is that of the text's table,
symbol or image. -/
theorem generateDeterministic : Obligations.GenerateDeterministic := by
  intro s1 s2 t1 t2 hc hcfg hconf htext he1 he2
  obtain rfl := Host.Outcome.next.inj he1
  obtain rfl := Host.Outcome.next.inj he2
  have h : SameInput s1 s2 := ⟨hcfg, hconf, State.readBytes_congr htext⟩
  change SameResults _ _
  by_cases hlegal : s1.textLen = 0 ∨ s1.cfg.textMax < s1.textLen
  · rw [generateStage_rejects hlegal, generateStage_rejects (by rwa [h.textLen_eq, hcfg])]
    exact ⟨rfl, rfl, rfl, fun hv => absurd hv (by simp)⟩
  have h1 : 1 ≤ s1.textLen := by omega
  have hn : s1.textLen ≤ s1.cfg.textMax := by omega
  obtain ⟨hc2, hn2⟩ := h.legal hc hn
  rw [generateStage_legal hc h1 hn, generateStage_legal hc2 (h.textLen_eq ▸ h1) hn2, h.textSegments_eq, h.level_eq]
  cases hv : selectVersion s1.textSegments s1.level with
  | none =>
    rw [buildSegments_tooLong _ hv, buildSegments_tooLong _ hv]
    exact h.results_tooLong hc hn _ _
  | some v =>
    obtain ⟨y, hy⟩ := encodeSymbol_isSome hv
    rw [buildSegments_symbol _ hv hy, buildSegments_symbol _ hv hy]
    exact h.results_symbol hc hn (encodeSymbol_shape hv hy)

end Sys2Proof.Machine
end

section
/-! ## Host accesses to the registers and reads of the buffers -/

namespace Sys2Proof.Machine

/-! ### The registers -/

theorem regAt_offset (r : Reg) : regAt r.offset = some r := by
  cases r with
  | penalty k => revert k; decide
  | _ => rfl

/-- The list of all registers has each (20_memory R61). -/
theorem Reg.mem_all (r : Reg) : r ∈ Reg.all := List.mem_of_find?_eq_some (regAt_offset r)

/-- Settles O10: each register by evaluation; no byte is listed. -/
theorem resetValues : Obligations.ResetValues := by
  have hresults : ∀ r ∈ Reg.all, r.isResult = true → State.reset.readReg r = 0 := by decide
  exact ⟨rfl, rfl, rfl, rfl, rfl, rfl, rfl, rfl, rfl, rfl, rfl, rfl, fun r => hresults r r.mem_all, rfl, rfl, fun _ => rfl⟩

/-- Every register lies in the register page at a multiple of 4 (20_memory R61). -/
theorem Reg.offset_bounds (r : Reg) : r.offset < 0x1000 ∧ r.offset % 4 = 0 := by
  cases r with
  | penalty k =>
    simp only [Reg.offset]
    omega
  | _ => exact ⟨by decide, rfl⟩

/-- The address of an offset of 32 bits names that offset (20_memory R60). -/
theorem State.offsetOf_base_add (s : State) {off : Nat} (h : off < 2 ^ 32) :
    s.offsetOf (s.cfg.base + BitVec.ofNat 32 off) = off := by
  simpa [State.offsetOf] using h

section
variable {s : State} (hr : s.resetLine = false)
include hr

/-- A 32-bit write at a register's address writes the register (20_memory R62). -/
theorem State.busWrite_regAddr (r : Reg) (v : Word) : s.busWrite .w32 (s.regAddr r) v = s.writeReg r v := by
  obtain ⟨hpage, halign⟩ := r.offset_bounds
  have hoff : s.offsetOf (s.regAddr r) = r.offset := s.offsetOf_base_add (by omega)
  simp [State.busWrite, hr, hoff, Width.bytes, halign, inRegPage, hpage, regAt_offset]

/-- A 32-bit read at a register's address reads the register, but for a result register while a command runs
(20_memory R62, R69). -/
theorem State.busRead_regAddr {r : Reg} (hres : s.status.busy = false ∨ r.isResult = false) :
    s.busRead .w32 (s.cfg.base + BitVec.ofNat 32 r.offset) = s.readReg r := by
  obtain ⟨hpage, halign⟩ := r.offset_bounds
  have hoff : s.offsetOf (s.cfg.base + BitVec.ofNat 32 r.offset) = r.offset := s.offsetOf_base_add (by omega)
  have hbusy : ¬(s.status.busy = true ∧ r.isResult = true) := by
    rintro ⟨hb, hi⟩
    simp [hb, hi] at hres
  simp [State.busRead, hr, hoff, Width.bytes, halign, inRegPage, hpage, regAt_offset, hbusy]

end

/-- Keeping the low k bits of a word (10_state R23). -/
theorem setWidth_setWidth_eq_and (v : Word) {k : Nat} (h : k ≤ 32) :
    (v.setWidth k).setWidth 32 = v &&& BitVec.ofNat 32 (2 ^ k - 1) := by
  have hk : 2 ^ k ≤ 2 ^ 32 := Nat.pow_le_pow_right (by decide) h
  have hpos : 0 < 2 ^ k := Nat.two_pow_pos k
  apply BitVec.eq_of_toNat_eq
  rw [BitVec.toNat_setWidth, BitVec.toNat_setWidth, BitVec.toNat_and, BitVec.toNat_ofNat,
    Nat.mod_eq_of_lt (show 2 ^ k - 1 < 2 ^ 32 by omega), Nat.and_two_pow_sub_one_eq_mod]
  exact Nat.mod_eq_of_lt (Nat.lt_of_lt_of_le (Nat.mod_lt _ hpos) hk)

/-! A register write stores in its own field alone (10_state R35 to R41). -/

section
variable (s : State) (r : Reg) (v : Word)

@[simp] theorem State.storeReg_conf_textLen :
    (s.storeReg r v).conf.textLen = if r = .textLen then v.setWidth 16 else s.conf.textLen := by
  cases r <;> rfl

@[simp] theorem State.storeReg_conf_eclReq :
    (s.storeReg r v).conf.eclReq = if r = .eclReq then v.setWidth 2 else s.conf.eclReq := by
  cases r <;> rfl

@[simp] theorem State.storeReg_conf_pixelWidth :
    (s.storeReg r v).conf.pixelWidth = if r = .pixelWidth then v.setWidth 16 else s.conf.pixelWidth := by
  cases r <;> rfl

@[simp] theorem State.storeReg_conf_margin :
    (s.storeReg r v).conf.margin = if r = .margin then v.setWidth 8 else s.conf.margin := by
  cases r <;> rfl

@[simp] theorem State.storeReg_conf_darkColor :
    (s.storeReg r v).conf.darkColor = if r = .darkColor then v else s.conf.darkColor := by
  cases r <;> rfl

@[simp] theorem State.storeReg_conf_lightColor :
    (s.storeReg r v).conf.lightColor = if r = .lightColor then v else s.conf.lightColor := by
  cases r <;> rfl

@[simp] theorem State.storeReg_conf_rsDataLen :
    (s.storeReg r v).conf.rsDataLen = if r = .rsDataLen then v.setWidth 8 else s.conf.rsDataLen := by
  cases r <;> rfl

@[simp] theorem State.storeReg_conf_rsEcLen :
    (s.storeReg r v).conf.rsEcLen = if r = .rsEcLen then v.setWidth 8 else s.conf.rsEcLen := by
  cases r <;> rfl

/-- A register write but to TEXT_LEN leaves STATUS (10_state R35). -/
theorem State.storeReg_status :
    (s.storeReg r v).status = if r = .textLen then { s.status with segv := false } else s.status := by
  cases r <;> rfl

end

/-- A register write leaves every other register but STATUS (20_memory R67). -/
theorem State.readReg_storeReg_other (s : State) {r q : Reg} (v : Word) (hq : q ≠ r) (hs : q ≠ .status) :
    (s.storeReg r v).readReg q = s.readReg q := by
  cases q with
  | status => exact absurd rfl hs
  | textLen | eclReq | pixelWidth | margin | darkColor | lightColor | rsDataLen | rsEcLen => simp [State.readReg, hq.symm]
  | _ =>
    rw [State.storeReg_eq]
    rfl

/-- The configuration registers with the masks of their fields (10_state R35 to R41). -/
def confFields : List (Reg × Word) :=
  [(Reg.textLen, 0xFFFF), (.eclReq, 0x3), (.pixelWidth, 0xFFFF), (.margin, 0xFF),
    (.darkColor, 0xFFFFFFFF), (.lightColor, 0xFFFFFFFF), (.rsDataLen, 0xFF), (.rsEcLen, 0xFF)]

/-- No configuration register is CMD or a result register. -/
theorem confFields_kind {r : Reg} {field : Word} (h : (r, field) ∈ confFields) : r ≠ .cmd ∧ r.isResult = false :=
  (by decide : ∀ x ∈ confFields, x.1 ≠ .cmd ∧ x.1.isResult = false) _ h

/-- A configuration register reads back the low bits of its field (10_state R23). -/
theorem State.readReg_storeReg_same (s : State) (v : Word) {r : Reg} {field : Word} (h : (r, field) ∈ confFields) :
    (s.storeReg r v).readReg r = v &&& field := by
  simp only [confFields, List.mem_cons, Prod.mk.injEq, List.not_mem_nil, or_false] at h
  have low : ∀ k, k ≤ 32 → (v.setWidth k).setWidth 32 = v &&& BitVec.ofNat 32 (2 ^ k - 1) :=
    fun _ => setWidth_setWidth_eq_and v
  have all : v = v &&& 0xFFFFFFFF := (BitVec.and_allOnes (x := v)).symm
  obtain ⟨rfl, rfl⟩ | ⟨rfl, rfl⟩ | ⟨rfl, rfl⟩ | ⟨rfl, rfl⟩ | ⟨rfl, rfl⟩ | ⟨rfl, rfl⟩ | ⟨rfl, rfl⟩ | ⟨rfl, rfl⟩ := h
  exacts [low 16 (by decide), low 2 (by decide), low 16 (by decide), low 8 (by decide), all, all, low 8 (by decide),
    low 8 (by decide)]

/-- Settles O14: the write is `storeReg`, which changes one field. -/
theorem configRegisterWrite : Obligations.ConfigRegisterWrite := by
  intro s v r field hmem hr hb
  obtain ⟨hcmd, hres⟩ := confFields_kind hmem
  have ht : s.hostStep (.write .w32 (s.regAddr r) v) = s.storeReg r v := by
    change s.busWrite .w32 (s.regAddr r) v = _
    rw [State.busWrite_regAddr hr, State.writeReg, if_neg (by simp [hb]), if_neg hcmd]
  have heq := s.storeReg_eq r v
  simp only [ht]
  refine ⟨?_, fun q hq hs => s.readReg_storeReg_other v hq hs, s.storeReg_status r v, ?_⟩
  · have haddr : s.regAddr r = (s.storeReg r v).cfg.base + BitVec.ofNat 32 r.offset := by rw [State.storeReg_cfg]; rfl
    rw [haddr, State.busRead_regAddr (by rw [heq]; exact hr) (.inr hres), s.readReg_storeReg_same v hmem]
  · rw [heq]
    exact ⟨rfl, rfl, rfl, rfl, rfl, rfl, rfl, rfl⟩

/-! ### The words of STATUS and ERRCODE -/

/-- The bits of STATUS as read (10_state R26). -/
theorem Status.toWord_eq (x : Status) :
    x.toWord = 0#25 ++ BitVec.ofBool x.ovr ++ BitVec.ofBool x.pixv ++ BitVec.ofBool x.symv
    ++ BitVec.ofBool x.segv ++ BitVec.ofBool x.err ++ BitVec.ofBool x.done ++ BitVec.ofBool x.busy := by
  obtain ⟨busy, done, err, segv, symv, pixv, ovr⟩ := x
  revert busy done err segv symv pixv ovr
  decide

/-- ERRCODE as read (10_state R34). -/
theorem ErrCode.toWord_eq (e : ErrCode) : BitVec.ofNat 32 e.code = (match e with
    | .none => 0 | .invalidInput => 1 | .dataTooLong => 2 | .internalEncodingError => 3
    | .illegalCommand => 4 | .bufferOverflow => 5 : Word) := by
  cases e <;> rfl

/-- While a command runs ERRCODE is 0 (10_state R28, R29, R34). -/
theorem ControlInv.errcode_of_busy {s : State} (h : ControlInv s) (hb : s.status.busy = true) : s.errcode = .none := by
  by_contra he
  have hdone := h.err_done (h.err_iff_code.mpr he)
  simp [h.done_not_busy hdone] at hb

/-! ### The buffers -/

section
variable {cfg : Config} (hc : cfg.wellFormed = true)
include hc

/-- A window ends before the next begins (20_memory R61). -/
theorem Window.end_le_base {w w' : Window} (h : w.base < w'.base) : w.base + w.size cfg ≤ w'.base := by
  have hb := Config.wellFormed_bounds hc
  cases w <;> cases w' <;> simp only [Window.base, Window.size] at h ⊢ <;> omega

/-- The windows are disjoint: an offset inside one is found in it (20_memory R61). -/
theorem windowOf_eq_some {a : Nat} {w : Window} (hlo : w.base ≤ a) (hhi : a < w.base + w.size cfg) :
    windowOf cfg a = some w := by
  obtain ⟨w', hw'⟩ := Option.ne_none_iff_exists'.mp ((windowOf_ne_none cfg a).mpr ⟨w, hlo, hhi⟩)
  obtain ⟨hlo', hhi'⟩ := windowOf_bounds hw'
  have hbase : w'.base = w.base := by
    obtain h | h | h := Nat.lt_trichotomy w'.base w.base
    · have := Window.end_le_base hc h
      omega
    · exact h
    · have := Window.end_le_base hc h
      omega
  have hinj : ∀ x y : Window, x.base = y.base → x = y := by
    intro x y
    cases x <;> cases y <;> simp [Window.base]
  rw [hw', hinj w' w hbase]

end

/-- RS_ENCODE does not run where no command runs, or LATCHED_OP holds another word (10_state R47). -/
theorem State.rsRunning_eq_false {s : State} (h : ¬(s.status.busy = true ∧ decode s.latchedOp = .ok .rsEncode)) :
    s.rsRunning = false := by
  unfold State.rsRunning
  cases hb : s.status.busy with
  | false => rfl
  | true =>
    cases hd : decode s.latchedOp with
    | error e => rfl
    | ok i =>
      have hi : i ≠ .rsEncode := fun hi => h ⟨hb, by rw [hd, hi]⟩
      simpa using hi

/-- A readable byte lies in a window, where it is defined (10_state R46 to R52, 20_memory R69). -/
theorem State.HostReadable.definedByte {s : State} {a : Nat} (h : s.HostReadable a) (hc : s.cfg.wellFormed = true) :
    ∃ w, windowOf s.cfg a = some w ∧ s.definedByte w (a - w.base) = true := by
  obtain ⟨hlo, hhi⟩ | ⟨hlo, hhi, hrun⟩ | ⟨hb, hv, hlo, hhi, hsize⟩ | ⟨hb, hv, hin⟩ | ⟨hb, hv, hlo, hhi, hsize⟩ := h
  · exact ⟨.textBuf, windowOf_eq_some hc hlo hhi, rfl⟩
  · refine ⟨.rsBuf, windowOf_eq_some hc hlo hhi, ?_⟩
    simpa [State.definedByte] using State.rsRunning_eq_false hrun
  · refine ⟨.segTable, windowOf_eq_some hc hlo hsize, ?_⟩
    have hdef : ∀ idx, idx < 16 * s.segCount.toNat → s.definedByte .segTable idx = true := fun idx h => by
      simp [State.definedByte, hb, hv, h]
    exact hdef _ (by simp only [Window.base]; omega)
  · obtain ⟨hlo, hhi, hsize⟩ | ⟨hlo, hhi, hsize⟩ | ⟨r, c, hr, hcc, hr177, hc177, rfl⟩ := hin
    · refine ⟨.dcwBuf, windowOf_eq_some hc hlo hsize, ?_⟩
      have hdef : ∀ idx, idx < s.build.dataCw.toNat → s.definedByte .dcwBuf idx = true := fun idx h => by
        simp [State.definedByte, hb, hv, h]
      exact hdef _ (by simp only [Window.base]; omega)
    · refine ⟨.cwBuf, windowOf_eq_some hc hlo hsize, ?_⟩
      have hdef : ∀ idx, idx < s.build.totalCw.toNat → s.definedByte .cwBuf idx = true := fun idx h => by
        simp [State.definedByte, hb, hv, h]
      exact hdef _ (by simp only [Window.base]; omega)
    · refine ⟨.matrixBuf, windowOf_eq_some hc (by simp only [Window.base]; omega)
        (by simp only [Window.base, Window.size]; omega), ?_⟩
      have hidx : 0x50000 + 177 * r + c - 0x50000 = 177 * r + c := by omega
      have hdiv : (177 * r + c) / 177 = r := by omega
      have hmod : (177 * r + c) % 177 = c := by omega
      simp [State.definedByte, hb, hv, Window.base, hidx, hdiv, hmod, hr, hcc]
  · refine ⟨.pixelBuf, windowOf_eq_some hc hlo hsize, ?_⟩
    have hdef : ∀ idx, idx < 4 * (s.raster.outDim.toNat * s.raster.outDim.toNat) →
        s.definedByte .pixelBuf idx = true := fun idx h => by
      simp [State.definedByte, hb, hv, h]
    exact hdef _ (by simp only [Window.base]; omega)

/-- A readable byte reads as its content, where it has been written (20_memory R69, 10_state R46). -/
theorem State.HostReadable.readBufByte {s : State} {a : Nat} (h : s.HostReadable a) (hc : s.cfg.wellFormed = true)
    (hl : (Memory.get? s.mem a).isSome = true) (lane : Nat) : s.readBufByte a lane = s.byteAt a := by
  obtain ⟨w, hw, hd⟩ := h.definedByte hc
  obtain ⟨b, hb⟩ := Option.isSome_iff_exists.mp hl
  simp [State.readBufByte, hw, hd, State.byteAt, hb]

/-- The little-endian value of n bytes (20_memory R63). -/
theorem natOfBytesLE_eq_sum (n : Nat) (f : Nat → Byte) :
    natOfBytesLE ((List.range n).map f) = ((List.range n).map fun i => (f i).toNat * 256 ^ i).sum := by
  induction n generalizing f with
  | zero => rfl
  | succ n ih =>
    rw [List.range_succ_eq_map, List.map_cons, List.map_cons, natOfBytesLE, List.sum_cons, List.map_map, List.map_map, ih,
      ← List.sum_map_mul_left]
    simp only [Function.comp_def, Nat.succ_eq_add_one, Nat.pow_succ, Nat.pow_zero, Nat.mul_one]
    congr 3
    funext i
    ring

/-- The offsets of readable bytes (20_memory R61). -/
theorem State.HostReadable.bounds {s : State} {a : Nat} (h : s.HostReadable a) (hc : s.cfg.wellFormed = true) :
    0x1000 ≤ a ∧ a < 2 ^ 32 := by
  have hb := Config.wellFormed_bounds hc
  obtain ⟨w, hw, -⟩ := h.definedByte hc
  obtain ⟨hlo, hhi⟩ := windowOf_bounds hw
  cases w <;> simp only [Window.base, Window.size] at hlo hhi <;> omega

/-- An aligned read of readable bytes returns their little-endian value (20_memory R63, R71). -/
theorem State.busRead_readable {s : State} (hc : s.cfg.wellFormed = true) (hr : s.resetLine = false) {w : Width} {off : Nat}
    (halign : off % w.bytes = 0)
    (h : ∀ i, i < w.bytes → s.HostReadable (off + i) ∧ (Memory.get? s.mem (off + i)).isSome = true) :
    s.busRead w (s.cfg.base + BitVec.ofNat 32 off)
      = BitVec.ofNat 32 (((List.range w.bytes).map fun i => (s.byteAt (off + i)).toNat * 256 ^ i).sum) := by
  obtain ⟨hlo, hhi⟩ := State.HostReadable.bounds (h 0 (by cases w <;> decide)).1 hc
  have hoff : s.offsetOf (s.cfg.base + BitVec.ofNat 32 off) = off := s.offsetOf_base_add hhi
  have hpage : inRegPage off = false := by simpa [inRegPage] using hlo
  have hbytes : ((List.range w.bytes).map fun i => s.readBufByte (off + i) i)
      = (List.range w.bytes).map fun i => s.byteAt (off + i) := List.map_congr_left fun i hi => by
    obtain ⟨hread, hl⟩ := h i (List.mem_range.mp hi)
    exact hread.readBufByte hc hl i
  simp [State.busRead, hr, hoff, halign, hpage, hbytes, natOfBytesLE_eq_sum]

/-- The control and configuration registers read their value at any time (10_state R24 to R41). -/
theorem State.busRead_control {s : State} (hr : s.resetLine = false) (r : Reg) (hres : r.isResult = false) :
    s.busRead .w32 (s.cfg.base + BitVec.ofNat 32 r.offset) = s.readReg r := State.busRead_regAddr hr (.inr hres)

/-- Settles O20: a register by its address, and a buffer access byte by byte. -/
theorem hostReadValues : Obligations.HostReadValues := by
  intro s hc hr
  refine ⟨fun w a => ⟨_, rfl⟩, fun off v h => ?_, fun hinv hb => ?_, fun hb => ⟨fun off v h => ?_, fun k => ?_⟩,
    fun w off halign h => State.busRead_readable hc hr halign h⟩
  · simp only [List.mem_cons, Prod.mk.injEq, List.not_mem_nil, or_false] at h
    obtain ⟨rfl, rfl⟩ | ⟨rfl, rfl⟩ | ⟨rfl, rfl⟩ | ⟨rfl, rfl⟩ | ⟨rfl, rfl⟩ | ⟨rfl, rfl⟩ | ⟨rfl, rfl⟩ | ⟨rfl, rfl⟩ |
      ⟨rfl, rfl⟩ | ⟨rfl, rfl⟩ | ⟨rfl, rfl⟩ | ⟨rfl, rfl⟩ := h
    · exact s.busRead_control hr .id rfl
    · exact s.busRead_control hr .cmd rfl
    · exact (s.busRead_control hr .status rfl).trans s.status.toWord_eq
    · exact (s.busRead_control hr .errcode rfl).trans s.errcode.toWord_eq
    · exact s.busRead_control hr .textLen rfl
    · exact s.busRead_control hr .eclReq rfl
    · exact s.busRead_control hr .pixelWidth rfl
    · exact s.busRead_control hr .margin rfl
    · exact s.busRead_control hr .darkColor rfl
    · exact s.busRead_control hr .lightColor rfl
    · exact s.busRead_control hr .rsDataLen rfl
    · exact s.busRead_control hr .rsEcLen rfl
  · refine (s.busRead_control hr .errcode rfl).trans ?_
    rw [State.readReg, hinv.errcode_of_busy hb]
    rfl
  · have hread : ∀ r : Reg, s.busRead .w32 (s.cfg.base + BitVec.ofNat 32 r.offset) = s.readReg r :=
      fun r => State.busRead_regAddr hr (.inl hb)
    simp only [List.mem_cons, Prod.mk.injEq, List.not_mem_nil, or_false] at h
    obtain ⟨rfl, rfl⟩ | ⟨rfl, rfl⟩ | ⟨rfl, rfl⟩ | ⟨rfl, rfl⟩ | ⟨rfl, rfl⟩ | ⟨rfl, rfl⟩ | ⟨rfl, rfl⟩ | ⟨rfl, rfl⟩ |
      ⟨rfl, rfl⟩ | ⟨rfl, rfl⟩ | ⟨rfl, rfl⟩ | ⟨rfl, rfl⟩ | ⟨rfl, rfl⟩ | ⟨rfl, rfl⟩ := h
    exacts [hread .segCount, hread .version, hread .side, hread .levelUsed, hread .maskUsed, hread .dataCw, hread .totalCw,
      hread .bitsUsed, hread .reqBytes, hread .capBytes, hread .modulePx, hread .outDim, hread .formatInfo,
      hread .versionInfo]
  · exact State.busRead_regAddr (r := .penalty k) hr (.inl hb)

end Sys2Proof.Machine
end

section
/-! ## Host writes

What a bus write does, by where it falls: on a register, on an aligned run of buffer bytes, or elsewhere, where it is ignored;
and what the bytes of a writable buffer hold after it. -/

namespace Sys2Proof.Machine

/-! ### Writes to the registers -/

/-- No two registers share an offset (20_memory R61). -/
theorem Reg.offset_injective : Function.Injective Reg.offset := fun r q h => by
  have hq : some r = some q := by rw [← regAt_offset r, h, regAt_offset]
  exact Option.some.inj hq

/-- An address is BASE and its offset (20_memory R60). -/
theorem State.base_add_offsetOf (s : State) (a : Word) : s.cfg.base + BitVec.ofNat 32 (s.offsetOf a) = a := by
  rw [State.offsetOf, BitVec.ofNat_toNat, BitVec.setWidth_eq, BitVec.add_comm, BitVec.sub_add_cancel]

theorem State.hostStep_write (s : State) (w : Width) (a v : Word) : s.hostStep (.write w a v) = s.busWrite w a v := rfl

/-- A 32-bit write at a register's offset writes the register (20_memory R62). -/
theorem State.busWrite_register {s : State} (hr : s.resetLine = false) {a : Word} {r : Reg} (h : s.offsetOf a = r.offset)
    (v : Word) : s.busWrite .w32 a v = s.writeReg r v := by
  obtain rfl : s.regAddr r = a := by rw [State.regAddr, ← h, s.base_add_offsetOf]
  exact State.busWrite_regAddr hr r v

/-- A write is ignored where it is neither a 32-bit one of a register nor an aligned one above the register page
(20_memory R62, R65). -/
theorem State.busWrite_ignored {s : State} {w : Width} {a : Word} (hreg : ∀ r : Reg, w = .w32 → s.offsetOf a ≠ r.offset)
    (hbuf : s.offsetOf a % w.bytes = 0 → s.offsetOf a < 0x1000) (v : Word) : s.busWrite w a v = s := by
  obtain h | ⟨-, -, hw, hoff, -⟩ | ⟨-, -, hw, hoff, -⟩ | ⟨-, -, hw, r, -, hoff, -⟩ | ⟨-, -, halign, hlo, -⟩ :=
    s.busWrite_cases w a v
  · exact h
  · exact absurd hoff (hreg _ hw)
  · exact absurd hoff (hreg _ hw)
  · exact absurd hoff (hreg r hw)
  · have := hbuf halign
    omega

/-- Settles O13: every ending of a bus write but the ignored one and the one that sets OVR needs BUSY = 0. -/
theorem busyIgnoresWrites : Obligations.BusyIgnoresWrites := by
  intro s w a v hr hb
  rw [State.hostStep_write]
  by_cases hcmd : w = .w32 ∧ s.offsetOf a = 0x004
  · rw [if_pos hcmd]
    obtain ⟨rfl, hoff⟩ := hcmd
    rw [State.busWrite_register (r := .cmd) hr hoff, State.writeReg, if_pos hb, if_pos rfl]
  · rw [if_neg hcmd]
    obtain h | ⟨-, -, hw, hoff, -⟩ | ⟨-, hidle, -⟩ | ⟨-, hidle, -⟩ | ⟨-, hidle, -⟩ := s.busWrite_cases w a v
    · exact h
    · exact absurd ⟨hw, hoff⟩ hcmd
    all_goals exact absurd hb (by simp [hidle])

/-- A read in the register page that is not a 32-bit one of a register returns 0 (20_memory R62, R65). -/
theorem State.busRead_noRegister {s : State} (hr : s.resetLine = false) {w : Width} {a : Word} (hpage : s.offsetOf a < 0x1000)
    (hreg : ∀ r : Reg, w = .w32 → s.offsetOf a ≠ r.offset) : s.busRead w a = 0 := by
  by_cases hw : w = .w32
  · have hnone : regAt (s.offsetOf a) = none := List.find?_eq_none.mpr fun r _ => by simpa using (hreg r hw).symm
    simp [State.busRead, hr, inRegPage, hpage, hnone]
  · simp [State.busRead, hr, inRegPage, hpage, hw]

/-- Settles O16: no register has an offset that is not a multiple of 4. -/
theorem narrowRegisterAccessIgnored : Obligations.NarrowRegisterAccessIgnored := by
  intro s w a v hr hpage hnarrow
  have hreg : ∀ r : Reg, w = .w32 → s.offsetOf a ≠ r.offset := fun r hw hoff => by
    have halign := r.offset_bounds.2
    obtain hw' | hmis := hnarrow
    · exact hw' hw
    · omega
  exact ⟨State.busWrite_ignored hreg (fun _ => hpage) v, State.busRead_noRegister hr hpage hreg⟩

/-- The registers other than CMD and the configuration registers store nothing (20_memory R64). -/
theorem State.storeReg_readOnly (s : State) {r : Reg} (h : r.isResult = true ∨ r = .id ∨ r = .status ∨ r = .errcode)
    (v : Word) : s.storeReg r v = s := by
  obtain h | rfl | rfl | rfl := h
  · cases r with
    | id | cmd | status | errcode | textLen | eclReq | pixelWidth | margin | darkColor | lightColor | rsDataLen | rsEcLen =>
      cases h
    | _ => rfl
  all_goals rfl

/-! ### Runs of buffer bytes -/

theorem Window.contains_iff (cfg : Config) (w : Window) (off : Nat) :
    w.contains cfg off = true ↔ w.base ≤ off ∧ off < w.base + w.size cfg := by
  simp [Window.contains]

/-- The two windows the host can write come first in the map, so no other parameter decides what lies in them
(20_memory R61). -/
theorem windowOf_eq_rsBuf_iff (cfg : Config) (off : Nat) :
    windowOf cfg off = some .rsBuf ↔ 0x1000 ≤ off ∧ off < 0x1100 := by
  refine ⟨windowOf_bounds, fun h => ?_⟩
  have hin : Window.contains cfg .rsBuf off = true := (Window.contains_iff _ _ _).mpr h
  simp [windowOf, Window.all, hin]

theorem windowOf_eq_textBuf_iff (cfg : Config) (off : Nat) :
    windowOf cfg off = some .textBuf ↔ 0x10000 ≤ off ∧ off < 0x10000 + cfg.textMax := by
  refine ⟨windowOf_bounds, fun h => ?_⟩
  have hrs : ¬Window.contains cfg .rsBuf off = true := by
    rw [Window.contains_iff]
    simp only [Window.base, Window.size]
    omega
  have hin : Window.contains cfg .textBuf off = true := (Window.contains_iff _ _ _).mpr h
  simp [windowOf, Window.all, hrs, hin]

/-- A host can write the byte: it lies in RS_BUF or in TEXT_BUF (20_memory R64, R67). -/
def Writable (cfg : Config) (off : Nat) : Prop := windowOf cfg off = some .rsBuf ∨ windowOf cfg off = some .textBuf

theorem writable_iff (cfg : Config) (off : Nat) : Writable cfg off ↔
    (0x1000 ≤ off ∧ off < 0x1100) ∨ (0x10000 ≤ off ∧ off < 0x10000 + cfg.textMax) :=
  or_congr (windowOf_eq_rsBuf_iff cfg off) (windowOf_eq_textBuf_iff cfg off)

section
variable (s : State) (off : Nat) (b : Byte)

@[simp] theorem State.writeBufByte_cfg : (s.writeBufByte off b).cfg = s.cfg := by rw [State.writeBufByte_eq]

/-- A byte write clears SEGV in TEXT_BUF, and changes no other status bit (20_memory R67). -/
theorem State.writeBufByte_status : (s.writeBufByte off b).status
    = if windowOf s.cfg off = some .textBuf then { s.status with segv := false } else s.status := by
  unfold State.writeBufByte
  cases h : windowOf s.cfg off with
  | none => rfl
  | some w => cases w <;> rfl

theorem State.writeBufByte_ignored (h : ¬Writable s.cfg off) : s.writeBufByte off b = s := by
  obtain heq | ⟨hw, -⟩ | ⟨hw, -⟩ := s.writeBufByte_cases off b
  · exact heq
  · exact absurd (.inr hw) h
  · exact absurd (.inl hw) h

theorem State.writeBufByte_mem (h : Writable s.cfg off) : (s.writeBufByte off b).mem = Memory.write s.mem off [b] := by
  unfold State.writeBufByte
  obtain hw | hw := h <;> rw [hw] <;> rfl

end

/-- The n byte writes of a bus write at offset `off`, lane i with the byte `val i` (20_memory R63). -/
def State.writeRun (s : State) (off n : Nat) (val : Nat → Byte) : State :=
  (List.range n).foldl (fun t i => t.writeBufByte (off + i) (val i)) s

section
variable (s : State) (off n : Nat) (val : Nat → Byte)

theorem State.writeRun_succ :
    s.writeRun off (n + 1) val = (s.writeRun off n val).writeBufByte (off + n) (val n) := by
  simp [State.writeRun, List.range_succ]

/-- A run changes the memory and SEGV alone (20_memory R67). -/
theorem State.writeRun_eq : s.writeRun off n val
    = { s with mem := (s.writeRun off n val).mem
               status := { s.status with segv := (s.writeRun off n val).status.segv } } := by
  induction n with
  | zero => rfl
  | succ n ih =>
    rw [State.writeRun_succ, State.writeBufByte_eq, ih]

@[simp] theorem State.writeRun_cfg : (s.writeRun off n val).cfg = s.cfg := by rw [State.writeRun_eq]

/-- A run clears SEGV where one of its bytes lies in TEXT_BUF, and changes no other status bit (20_memory R67). -/
theorem State.writeRun_status : (s.writeRun off n val).status
    = if ∃ i, i < n ∧ windowOf s.cfg (off + i) = some .textBuf then { s.status with segv := false } else s.status := by
  induction n with
  | zero => simp [State.writeRun]
  | succ n ih =>
    rw [State.writeRun_succ, State.writeBufByte_status, State.writeRun_cfg, ih]
    simp only [Nat.exists_lt_succ_right]
    by_cases hn : windowOf s.cfg (off + n) = some .textBuf <;>
      by_cases hrun : ∃ i, i < n ∧ windowOf s.cfg (off + i) = some .textBuf <;> simp [hn, hrun]

variable {s off n}

/-- A run with no byte in a writable window is ignored (20_memory R64, R65). -/
theorem State.writeRun_ignored (h : ∀ i, i < n → ¬Writable s.cfg (off + i)) : s.writeRun off n val = s := by
  induction n with
  | zero => rfl
  | succ n ih =>
    rw [State.writeRun_succ, ih fun i hi => h i (Nat.lt_succ_of_lt hi)]
    exact State.writeBufByte_ignored _ _ _ (h n (Nat.lt_succ_self n))

/-- After a run inside the writable windows each of its offsets lists its byte, and every other one what it listed
(20_memory R70). -/
theorem State.get?_writeRun (h : ∀ i, i < n → Writable s.cfg (off + i)) (a : Nat) :
    Memory.get? (s.writeRun off n val).mem a
      = if off ≤ a ∧ a < off + n then some (val (a - off)) else Memory.get? s.mem a := by
  induction n with
  | zero => rw [if_neg (by omega)]; rfl
  | succ n ih =>
    have hlast : Writable (s.writeRun off n val).cfg (off + n) := by
      rw [State.writeRun_cfg]
      exact h n (Nat.lt_succ_self n)
    rw [State.writeRun_succ, State.writeBufByte_mem _ _ _ hlast]
    by_cases ha : a = off + n
    · subst ha
      rw [if_pos (by omega), Nat.add_sub_cancel_left]
      exact Memory.get?_write_inside _ (off + n) [val n] 0 Nat.one_pos
    · rw [Memory.get?_write_outside _ _ _ _ (by rw [List.length_singleton]; omega),
        ih fun i hi => h i (Nat.lt_succ_of_lt hi)]
      exact if_congr (by omega) rfl rfl

end

/-- An aligned write above the register page is a run of byte writes (20_memory R63). -/
theorem State.busWrite_buffer {s : State} (hr : s.resetLine = false) (hb : s.status.busy = false) {w : Width} {a : Word}
    (halign : s.offsetOf a % w.bytes = 0) (hlo : 0x1000 ≤ s.offsetOf a) (v : Word) :
    s.busWrite w a v = s.writeRun (s.offsetOf a) w.bytes (byteLane v.toNat) := by
  have hpage : inRegPage (s.offsetOf a) = false := by simpa [inRegPage] using hlo
  simp [State.busWrite, hr, hb, halign, hpage, State.writeRun]

/-- A write above the register page with no byte in a writable window is ignored, in every state (20_memory R64, R65). -/
theorem State.busWrite_notWritable {s : State} {w : Width} {a : Word} (hlo : 0x1000 ≤ s.offsetOf a)
    (h : ∀ i, i < w.bytes → ¬Writable s.cfg (s.offsetOf a + i)) (v : Word) : s.busWrite w a v = s := by
  have hreg : ∀ r : Reg, s.offsetOf a ≠ r.offset := fun r hoff => by
    have := r.offset_bounds.1
    omega
  obtain heq | ⟨-, -, -, hoff, -⟩ | ⟨-, -, -, hoff, -⟩ | ⟨-, -, -, r, -, hoff, -⟩ | ⟨-, -, -, -, heq⟩ :=
    s.busWrite_cases w a v
  · exact heq
  · exact absurd hoff (hreg _)
  · exact absurd hoff (hreg _)
  · exact absurd hoff (hreg r)
  · exact heq.trans (State.writeRun_ignored _ h)

/-! ### Side effects, and what is ignored -/

/-- What a write other than to CMD can do while BUSY = 0, each ending with its exact condition (20_memory R62 to R67). -/
theorem State.busWrite_idle_cases {s : State} (hr : s.resetLine = false) (hb : s.status.busy = false) {w : Width} {a : Word}
    (hcmd : ¬(w = .w32 ∧ s.offsetOf a = Reg.cmd.offset)) (v : Word) :
    ((∀ r : Reg, w = .w32 → s.offsetOf a ≠ r.offset) ∧ (s.offsetOf a % w.bytes = 0 → s.offsetOf a < 0x1000)
        ∧ s.busWrite w a v = s)
      ∨ (∃ r : Reg, w = .w32 ∧ s.offsetOf a = r.offset ∧ s.busWrite w a v = s.storeReg r v)
      ∨ (s.offsetOf a % w.bytes = 0 ∧ 0x1000 ≤ s.offsetOf a
        ∧ s.busWrite w a v = s.writeRun (s.offsetOf a) w.bytes (byteLane v.toNat)) := by
  by_cases hreg : ∃ r : Reg, w = .w32 ∧ s.offsetOf a = r.offset
  · obtain ⟨r, rfl, hoff⟩ := hreg
    have hne : r ≠ .cmd := by
      rintro rfl
      exact hcmd ⟨rfl, hoff⟩
    refine .inr (.inl ⟨r, rfl, hoff, ?_⟩)
    rw [State.busWrite_register hr hoff, State.writeReg, if_neg (by simp [hb]), if_neg hne]
  · have hreg' : ∀ r : Reg, w = .w32 → s.offsetOf a ≠ r.offset := fun r hw hoff => hreg ⟨r, hw, hoff⟩
    by_cases hbuf : s.offsetOf a % w.bytes = 0 ∧ 0x1000 ≤ s.offsetOf a
    · obtain ⟨halign, hlo⟩ := hbuf
      exact .inr (.inr ⟨halign, hlo, State.busWrite_buffer hr hb halign hlo v⟩)
    · have hbuf' : s.offsetOf a % w.bytes = 0 → s.offsetOf a < 0x1000 := fun halign => by
        by_contra hlo
        exact hbuf ⟨halign, by omega⟩
      exact .inl ⟨hreg', hbuf', State.busWrite_ignored hreg' hbuf' v⟩

/-- An aligned access has a byte in TEXT_BUF exactly where it starts there: TEXT_BUF starts at a multiple of 4
(20_memory R61, R62). -/
theorem touches_textBuf_iff (cfg : Config) {w : Width} {off : Nat} (halign : off % w.bytes = 0) :
    (∃ i, i < w.bytes ∧ windowOf cfg (off + i) = some .textBuf) ↔ 0x10000 ≤ off ∧ off < 0x10000 + cfg.textMax := by
  constructor
  · rintro ⟨i, hi, hw⟩
    rw [windowOf_eq_textBuf_iff] at hw
    cases w <;> simp only [Width.bytes] at halign hi <;> omega
  · intro h
    exact ⟨0, by cases w <;> decide, (windowOf_eq_textBuf_iff cfg off).mpr h⟩

/-- Settles O15: the three endings of an idle write, and where a run of bytes touches TEXT_BUF. -/
theorem writeSideEffects : Obligations.WriteSideEffects := by
  intro s w a v hr hb
  refine ⟨?_, fun hcmd => ?_⟩
  · rintro ⟨rfl, hoff⟩
    rw [State.hostStep_write, State.busWrite_register (r := .cmd) hr hoff, State.writeReg, if_neg (by simp [hb]), if_pos rfl]
  · obtain ⟨hreg, hbuf, h⟩ | ⟨r, rfl, hoff, h⟩ | ⟨halign, hlo, h⟩ := State.busWrite_idle_cases hr hb hcmd v
    · simp only [State.hostStep_write, h]
      have hno : ¬((w = .w32 ∧ s.offsetOf a = 0x010)
          ∨ (s.offsetOf a % w.bytes = 0 ∧ 0x10000 ≤ s.offsetOf a ∧ s.offsetOf a < 0x10000 + s.cfg.textMax)) := by
        rintro (⟨hw, hoff⟩ | ⟨halign, hlo, -⟩)
        · exact hreg .textLen hw hoff
        · have := hbuf halign
          omega
      rw [if_neg hno]
      simp
    · have hpage := r.offset_bounds.1
      have htext : s.offsetOf a = 0x010 ↔ r = .textLen := by
        rw [hoff]
        exact Reg.offset_injective.eq_iff (b := .textLen)
      simp only [State.hostStep_write, h]
      refine ⟨?_, fun hlo => by omega, fun _ => s.storeReg_mem r v, ?_⟩
      · rw [State.storeReg_status]
        refine if_congr ?_ rfl rfl
        have hlow : ¬0x10000 ≤ s.offsetOf a := by omega
        simp [htext, hlow]
      · rw [State.storeReg_eq]
        simp
    · have hnot : s.offsetOf a ≠ 0x010 := by omega
      simp only [State.hostStep_write, h]
      refine ⟨?_, fun _ => by rw [State.writeRun_eq], fun hpage => by omega, ?_⟩
      · rw [State.writeRun_status]
        refine if_congr ?_ rfl rfl
        rw [touches_textBuf_iff s.cfg halign]
        simp [hnot, halign]
      · rw [State.writeRun_eq]
        simp

/-- The windows the host cannot write lie above TEXT_BUF, so an access that starts in one has no writable byte
(20_memory R61, R64). -/
theorem not_writable_of_readOnly {cfg : Config} {off : Nat}
    (h : windowOf cfg off ∈ [some Window.segTable, some .dcwBuf, some .cwBuf, some .matrixBuf, some .pixelBuf]) :
    0x20000 ≤ off ∧ ∀ i, ¬Writable cfg (off + i) := by
  obtain ⟨w, hw⟩ : ∃ w, windowOf cfg off = some w := by
    cases hw : windowOf cfg off with
    | none => simp [hw] at h
    | some w => exact ⟨w, rfl⟩
  have hbase : 0x20000 ≤ w.base ∧ w ≠ .textBuf := by
    rw [hw] at h
    cases w <;> simp [Window.base] at h ⊢
  have hoff : 0x20000 ≤ off := hbase.1.trans (windowOf_bounds hw).1
  have htext : ¬(0x10000 ≤ off ∧ off < 0x10000 + cfg.textMax) := by
    rw [← windowOf_eq_textBuf_iff, hw]
    simpa using hbase.2
  refine ⟨hoff, fun i => ?_⟩
  rw [writable_iff]
  omega

/-- Settles O17: a write to a read-only window has no writable byte, and a read-only register stores nothing. -/
theorem readOnlyWritesIgnored : Obligations.ReadOnlyWritesIgnored := by
  intro s w a v h
  rw [State.hostStep_write]
  obtain hwin | ⟨r, hr, hoff⟩ := h
  · obtain ⟨hlo, hnot⟩ := not_writable_of_readOnly hwin
    exact State.busWrite_notWritable (by omega) (fun i _ => hnot i) v
  · have hcmd : s.offsetOf a ≠ Reg.cmd.offset := by
      rw [hoff, Reg.offset_injective.ne_iff]
      rintro rfl
      simp [Reg.isResult] at hr
    obtain h | ⟨-, -, -, hc, -⟩ | ⟨-, -, -, hc, -⟩ | ⟨-, -, -, q, -, hq, h⟩ | ⟨-, -, -, hlo, -⟩ := s.busWrite_cases w a v
    · exact h
    · exact absurd hc hcmd
    · exact absurd hc hcmd
    · obtain rfl : q = r := Reg.offset_injective (hq.symm.trans hoff)
      rw [h, s.storeReg_readOnly hr]
    · have := r.offset_bounds.1
      omega

/-- No register lies in the gaps of the register page (20_memory R61, R65). -/
theorem Reg.offset_not_gap (r : Reg) : ¬((0x030 ≤ r.offset ∧ r.offset < 0x040) ∨ (0x078 ≤ r.offset ∧ r.offset < 0x080)
    ∨ (0x0A0 ≤ r.offset ∧ r.offset < 0x1000)) := by
  cases r with
  | penalty k =>
    simp only [Reg.offset]
    omega
  | _ => decide

/-- A read of unmapped bytes above the register page returns 0 (20_memory R65). -/
theorem State.busRead_unmapped {s : State} (hr : s.resetLine = false) {w : Width} {a : Word} (hlo : 0x1000 ≤ s.offsetOf a)
    (h : ∀ i, i < w.bytes → windowOf s.cfg (s.offsetOf a + i) = none) : s.busRead w a = 0 := by
  have hpage : inRegPage (s.offsetOf a) = false := by simpa [inRegPage] using hlo
  have hbytes : ((List.range w.bytes).map fun i => s.readBufByte (s.offsetOf a + i) i)
      = (List.range w.bytes).map fun _ => 0 := List.map_congr_left fun i hi => by
    rw [State.readBufByte, h i (List.mem_range.mp hi)]
  have hzero : natOfBytesLE ((List.range w.bytes).map fun _ => 0) = 0 := by
    rw [natOfBytesLE_eq_sum]
    simp
  simp only [State.busRead, hr, hpage, hbytes, hzero]
  simp

theorem Window.exists_iff (P : Window → Prop) : (∃ w, P w) ↔
    P .rsBuf ∨ P .textBuf ∨ P .segTable ∨ P .dcwBuf ∨ P .cwBuf ∨ P .matrixBuf ∨ P .pixelBuf := by
  constructor
  · rintro ⟨w, hw⟩
    cases w <;> simp [hw]
  · rintro (h | h | h | h | h | h | h)
    exacts [⟨_, h⟩, ⟨_, h⟩, ⟨_, h⟩, ⟨_, h⟩, ⟨_, h⟩, ⟨_, h⟩, ⟨_, h⟩]

/-- The mapped buffer offsets, written out (20_memory R61). -/
theorem windowOf_ne_none_iff (cfg : Config) (off : Nat) : windowOf cfg off ≠ none ↔
    (0x1000 ≤ off ∧ off < 0x1100) ∨ (0x10000 ≤ off ∧ off < 0x10000 + cfg.textMax)
      ∨ (0x20000 ≤ off ∧ off < 0x20000 + 16 * cfg.segMax) ∨ (0x40000 ≤ off ∧ off < 0x40B8C)
      ∨ (0x41000 ≤ off ∧ off < 0x41E7A) ∨ (0x50000 ≤ off ∧ off < 0x57A61)
      ∨ (0x1000000 ≤ off ∧ off < 0x1000000 + 4 * cfg.pixMax) := by
  have hbase : Window.base .matrixBuf = 0x50000 := rfl
  have hsize : Window.size cfg .matrixBuf = 31329 := rfl
  rw [windowOf_ne_none, Window.exists_iff, hbase, hsize]
  simp only [Window.base, Window.size, Nat.reduceAdd]

/-- Settles O18: no register lies in a gap, and an offset in no window is neither writable nor read. -/
theorem unmappedAccess : Obligations.UnmappedAccess := by
  refine ⟨fun s w a v hr hgap => ?_, fun s w a v hr hlo hnone => ?_, fun cfg off _ => ?_⟩
  · have hreg : ∀ r : Reg, w = .w32 → s.offsetOf a ≠ r.offset := fun r _ hoff => r.offset_not_gap (hoff ▸ hgap)
    have hpage : s.offsetOf a < 0x1000 := by omega
    exact ⟨State.busWrite_ignored hreg (fun _ => hpage) v, State.busRead_noRegister hr hpage hreg⟩
  · have hnot : ∀ i, i < w.bytes → ¬Writable s.cfg (s.offsetOf a + i) := fun i hi => by simp [Writable, hnone i hi]
    exact ⟨State.busWrite_notWritable hlo hnot v, State.busRead_unmapped hr hlo hnone⟩
  · rw [← windowOf_ne_none_iff, not_not]

/-! ### Little-endian order -/

/-- The lanes from j on are those of the value shifted down by j bytes (20_memory R63). -/
theorem byteLane_add (x j i : Nat) : byteLane x (j + i) = byteLane (x / 256 ^ j) i := by
  rw [byteLane, byteLane, Nat.div_div_eq_div_mul, Nat.pow_add]

/-- n bytes of a value give back the value modulo 256^n (20_memory R63). -/
theorem natOfBytesLE_bytesLE_mod (n x : Nat) : natOfBytesLE (bytesLE n x) = x % 256 ^ n := by
  induction n generalizing x with
  | zero => simp [bytesLE, natOfBytesLE, Nat.mod_one]
  | succ n ih =>
    have hcons : bytesLE (n + 1) x = byteLane x 0 :: bytesLE n (x / 256) := by
      simp only [bytesLE, List.range_succ_eq_map, List.map_cons, List.map_map]
      congr 1
      exact List.map_congr_left fun i _ => by
        rw [Function.comp_apply, Nat.succ_eq_one_add, byteLane_add, Nat.pow_one]
    rw [hcons, natOfBytesLE, ih, Nat.pow_succ', Nat.mod_mul]
    simp [byteLane]

/-- An access inside a wider aligned one, at a multiple of its width, is aligned (20_memory R62). -/
theorem Width.aligned_part {w r : Width} {off j : Nat} (hw : off % w.bytes = 0) (hj : j % r.bytes = 0)
    (hin : j + r.bytes ≤ w.bytes) : (off + j) % r.bytes = 0 := by
  have hdvd : r.bytes ∣ w.bytes := by
    cases w <;> cases r <;> simp [Width.bytes] at hin ⊢
  exact Nat.mod_eq_zero_of_dvd (Nat.dvd_add (hdvd.trans (Nat.dvd_of_mod_eq_zero hw)) (Nat.dvd_of_mod_eq_zero hj))

/-- A writable byte is readable while BUSY = 0 (10_state R46, R47). -/
theorem Writable.hostReadable {s : State} {off : Nat} (h : Writable s.cfg off) (hb : s.status.busy = false) :
    s.HostReadable off := by
  obtain hrs | htext := (writable_iff s.cfg off).mp h
  · exact .inr (.inl ⟨hrs.1, hrs.2, by simp [hb]⟩)
  · exact .inl htext

/-- An aligned read of readable bytes that list the lanes of a value returns the value, cut to its width (20_memory R63). -/
theorem State.busRead_lanes {s : State} (hc : s.cfg.wellFormed = true) (hr : s.resetLine = false) {w : Width} {off x : Nat}
    (halign : off % w.bytes = 0)
    (h : ∀ i, i < w.bytes → s.HostReadable (off + i) ∧ Memory.get? s.mem (off + i) = some (byteLane x i)) :
    s.busRead w (s.cfg.base + BitVec.ofNat 32 off) = BitVec.ofNat 32 (x % 256 ^ w.bytes) := by
  have hlisted : ∀ i, i < w.bytes → s.HostReadable (off + i) ∧ (Memory.get? s.mem (off + i)).isSome = true := fun i hi => by
    obtain ⟨hread, hl⟩ := h i hi
    exact ⟨hread, by rw [hl]; rfl⟩
  have hbytes : ((List.range w.bytes).map fun i => s.byteAt (off + i)) = bytesLE w.bytes x :=
    List.map_congr_left fun i hi => by
      rw [State.byteAt, (h i (List.mem_range.mp hi)).2]
      rfl
  rw [State.busRead_readable hc hr halign hlisted, ← natOfBytesLE_eq_sum, hbytes, natOfBytesLE_bytesLE_mod]

/-- Settles O19: the run lists the lanes of the value at its offsets, and a read inside it collects its lanes. -/
theorem bufferWriteReadBack : Obligations.BufferWriteReadBack := by
  intro s w a v hc hr hb halign hin
  have hbounds := Config.wellFormed_bounds hc
  have hwrite : ∀ i, i < w.bytes → Writable s.cfg (s.offsetOf a + i) := fun i hi => by
    rw [writable_iff]
    omega
  have hrun : s.hostStep (.write w a v) = s.writeRun (s.offsetOf a) w.bytes (byteLane v.toNat) :=
    State.busWrite_buffer hr hb halign (by omega) v
  have hmem := State.get?_writeRun (byteLane v.toNat) hwrite
  simp only [hrun]
  refine ⟨fun r j hj hjw => ?_, fun b hout => by rw [hmem, if_neg (by omega)]⟩
  set t := s.writeRun (s.offsetOf a) w.bytes (byteLane v.toNat) with ht
  have hcfg : t.cfg = s.cfg := s.writeRun_cfg _ _ _
  have htr : t.resetLine = false := by rw [ht, State.writeRun_eq]; exact hr
  have htb : t.status.busy = false := by rw [ht, State.writeRun_eq]; exact hb
  have haddr : a + BitVec.ofNat 32 j = t.cfg.base + BitVec.ofNat 32 (s.offsetOf a + j) := by
    rw [hcfg, BitVec.ofNat_add, ← BitVec.add_assoc, s.base_add_offsetOf]
  rw [haddr]
  refine State.busRead_lanes (hcfg ▸ hc) htr (Width.aligned_part halign hj hjw) fun i hi => ⟨?_, ?_⟩
  · refine Writable.hostReadable ?_ htb
    rw [hcfg, Nat.add_assoc]
    exact hwrite (j + i) (by omega)
  · rw [hmem, if_pos (by omega), ← byteLane_add, Nat.add_assoc, Nat.add_sub_cancel_left]

end Sys2Proof.Machine
end

section
/-! ## The command word

Every word is the encoding of a command, or rejected for its RSVD field, or rejected for its OP field; one inversion of the
decoder says so, and each statement about it is read off from there. -/

namespace Sys2Proof

/-! ### The decoder and the encoder -/

theorem encode_toNat_lt (i : Instr) : (encode i).toNat < 6 := by cases i <;> decide

/-- The values below 6 are the six command words (30_encoding R91). -/
theorem exists_eq_encode {w : Word} (h : w.toNat < 6) : ∃ i, w = encode i := by
  have hw : w = BitVec.ofNat 32 w.toNat := by simp
  interval_cases w.toNat
  exacts [⟨.nop, hw⟩, ⟨.segment, hw⟩, ⟨.build, hw⟩, ⟨.raster, hw⟩, ⟨.generate, hw⟩, ⟨.rsEncode, hw⟩]

@[simp] theorem decode_encode (i : Instr) : decode (encode i) = .ok i := by cases i <;> rfl

/-- The decoder's three endings, each with its condition (30_encoding R91 to R93). -/
theorem decode_cases (w : Word) :
    (∃ i, w = encode i ∧ decode w = .ok i)
      ∨ (w.toNat / 16 ≠ 0 ∧ decode w = .error .reservedField)
      ∨ (w.toNat / 16 = 0 ∧ 6 ≤ w.toNat % 16 ∧ decode w = .error .reservedOpcode) := by
  by_cases hrsvd : w.toNat / 16 = 0
  · by_cases hop : w.toNat % 16 < 6
    · obtain ⟨i, rfl⟩ := exists_eq_encode (w := w) (by omega)
      exact .inl ⟨i, rfl, decode_encode i⟩
    · have hne : ∀ k, k < 6 → w.toNat % 16 ≠ k := by omega
      exact .inr (.inr ⟨hrsvd, by omega, by simp [decode, rsvdField, opField, hrsvd, hne]⟩)
  · exact .inr (.inl ⟨hrsvd, if_pos hrsvd⟩)

theorem decode_eq_ok_iff (w : Word) (i : Instr) : decode w = .ok i ↔ w = encode i := by
  refine ⟨fun h => ?_, fun h => h ▸ decode_encode i⟩
  obtain ⟨j, hw, hj⟩ | ⟨-, he⟩ | ⟨-, -, he⟩ := decode_cases w
  · obtain rfl : j = i := by simpa [hj] using h
    exact hw
  · simp [he] at h
  · simp [he] at h

theorem decode_eq_reservedField_iff (w : Word) : decode w = .error .reservedField ↔ w.toNat / 16 ≠ 0 := by
  obtain ⟨i, rfl, h⟩ | ⟨hrsvd, h⟩ | ⟨hrsvd, -, h⟩ := decode_cases w
  · have hrsvd : (encode i).toNat / 16 = 0 := Nat.div_eq_of_lt ((encode_toNat_lt i).trans (by decide))
    simp [h, hrsvd]
  · simp [h, hrsvd]
  · simp [h, hrsvd]

theorem decode_eq_reservedOpcode_iff (w : Word) :
    decode w = .error .reservedOpcode ↔ w.toNat / 16 = 0 ∧ 6 ≤ w.toNat % 16 := by
  obtain ⟨i, rfl, h⟩ | ⟨hrsvd, h⟩ | ⟨hrsvd, hop, h⟩ := decode_cases w
  · have hop : (encode i).toNat % 16 < 6 := (Nat.mod_le _ _).trans_lt (encode_toNat_lt i)
    simp [h, hop]
  · simp [h, hrsvd]
  · simp [h, hrsvd, hop]

/-- The opcode-table decoder reads the word's value, none that does not fit 32 bits (30_encoding R90). -/
theorem decodeTableWord_eq_some_iff (n w : Nat) (i : Instr) :
    decodeTableWord n w = some i ↔ w % 2 ^ n = (encode i).toNat := by
  unfold decodeTableWord
  generalize w % 2 ^ n = x
  by_cases hx : x < 2 ^ 32
  · have hword : decode (BitVec.ofNat 32 x) = .ok i ↔ x = (encode i).toNat := by
      rw [decode_eq_ok_iff, ← BitVec.toNat_inj, BitVec.toNat_ofNat, Nat.mod_eq_of_lt hx]
    rw [if_pos hx, ← hword]
    cases decode (BitVec.ofNat 32 x) <;> simp
  · have hne : x ≠ (encode i).toNat := by
      have := encode_toNat_lt i
      omega
    simp only [if_neg hx, hne, reduceCtorEq]

/-- Settles O2: the decoder's three endings exclude each other. -/
theorem decodeEncodeAgree : Obligations.DecodeEncodeAgree :=
  ⟨decode_encode, decode_eq_ok_iff, decode_eq_reservedField_iff, decode_eq_reservedOpcode_iff, decodeTableWord_eq_some_iff⟩

/-- Settles O1: each word is by definition the encoding of its command, and `decode_encode` decodes it. -/
theorem commandWordsDecode : Obligations.CommandWordsDecode :=
  ⟨decode_encode .nop, decode_encode .segment, decode_encode .build, decode_encode .raster, decode_encode .generate,
    decode_encode .rsEncode, rfl, rfl, rfl, rfl, rfl, rfl⟩

end Sys2Proof
end

section
/-! ## The WAIT loop

What the step does at a due completion, and with a WAIT as the oldest input: the poll returns STATUS, and stays pending while
BUSY = 1. Each poll of a running command takes one host step off its delay, so the loop's length is the delay, the completion
and the last poll. -/

namespace Sys2Proof.Machine

variable {s : State}

/-- Where the completion is due, the step leaves a completion of the running command, its body's frame kept (70_reset R337). -/
theorem step_of_completionDue (h : s.completionDue = true) :
    ∃ t e, step s = .next (t.complete e) ∧ CommandFrame s t := by
  simp only [step, h, if_true, engineStep]
  cases decode s.latchedOp with
  | ok i => exact ⟨_, _, exec_eq i s, commandStage_frame i s⟩
  | error _ => exact ⟨s, .illegalCommand, rfl, .refl s⟩

/-- Where no completion is due, the step takes the oldest input (70_reset R334). -/
theorem step_of_input (h : s.completionDue = false) {op : HostOp} {rest : List HostOp} (hq : s.hostQueue = op :: rest) :
    step s = .next (State.hostStep { s with hostQueue := rest, delayLeft := s.delayLeft - 1 } op) := by
  simp [step, h, hq]

theorem runSteps_succ {t : State} (h : step s = .next t) (n : Nat) : runSteps (n + 1) s = runSteps n t := by
  simp [runSteps, h]

/-- Bit 0 of STATUS is BUSY (10_state R26). -/
theorem Status.toWord_getLsbD_zero (x : Status) : x.toWord.getLsbD 0 = x.busy := by
  rw [Status.toWord_eq]
  exact BitVec.getLsbD_append.trans (by simp)

/-- A WAIT poll delivers STATUS, and stays pending while BUSY = 1 (30_encoding R96). -/
theorem State.hostStep_wait (hr : s.resetLine = false) :
    s.hostStep .wait = if s.status.busy then { s.deliver s.status.toWord with hostQueue := .wait :: s.hostQueue }
      else s.deliver s.status.toWord := by
  have hread : s.busRead .w32 (s.regAddr .status) = s.status.toWord := State.busRead_control hr .status rfl
  simp only [State.hostStep, hread, Status.toWord_getLsbD_zero, State.deliver_hostQueue]

/-- The last poll of a WAIT: the block is idle, and the value it delivers shows BUSY = 0 (30_encoding R96). -/
theorem step_wait_idle (hr : s.resetLine = false) (hp : s.phase = .idle) (hb : s.status.busy = false) {rest : List HostOp}
    (hq : s.hostQueue = .wait :: rest) :
    step s = .next (State.deliver { s with hostQueue := rest, delayLeft := s.delayLeft - 1 } s.status.toWord) := by
  rw [step_of_input (by simp [State.completionDue, hp]) hq, State.hostStep_wait]
  · simp [hb]
  · exact hr

/-- A poll of a WAIT before the completion is due: the WAIT stays pending, one host step off the delay (30_encoding R96). -/
theorem step_wait_running (hr : s.resetLine = false) (hb : s.status.busy = true) {rest : List HostOp}
    (hq : s.hostQueue = .wait :: rest) (hd : s.delayLeft ≠ 0) :
    step s = .next { s.deliver s.status.toWord with delayLeft := s.delayLeft - 1 } := by
  rw [step_of_input (by simp [State.completionDue, hd, hq]) hq, State.hostStep_wait]
  · simp [hb, State.deliver, hq]
  · exact hr

/-- A WAIT issued while a command runs ends after the polls of its delay, the completion and one poll more (30_encoding
R96, 70_reset R341, log 2). -/
theorem wait_running_ends {d : Nat} (hd : s.delayLeft = d) (hr : s.resetLine = false) (hp : s.phase = .running)
    (hb : s.status.busy = true) {rest : List HostOp} (hq : s.hostQueue = .wait :: rest) :
    ∃ u v vs, runSteps (d + 2) s = some u ∧ u.hostQueue = rest ∧ u.status.busy = false ∧ u.hostReads = v :: vs
      ∧ v.getLsbD 0 = false := by
  induction d generalizing s with
  | zero =>
    obtain ⟨t, e, hstep, hframe⟩ := step_of_completionDue (s := s) (by simp [State.completionDue, hp, hd])
    have hpoll := step_wait_idle (s := t.complete e) (hframe.resetLine.trans hr) rfl rfl (hframe.hostQueue.trans hq)
    exact ⟨_, _, _, (runSteps_succ hstep 1).trans (runSteps_succ hpoll 0), rfl, rfl, rfl, Status.toWord_getLsbD_zero _⟩
  | succ d ih =>
    rw [runSteps_succ (step_wait_running hr hb hq (by omega))]
    exact ih (by simp [hd]) hr hp hb hq

/-- Settles O9: BUSY = 1 exactly while a command runs, whose WAIT `wait_running_ends` bounds; an idle block ends it at once. -/
theorem waitEnds : Obligations.WaitEnds := by
  intro s rest hinv hr hq
  refine ⟨fun hp => ?_, fun hp => ?_⟩
  · obtain ⟨u, v, vs, h⟩ := wait_running_ends rfl hr hp (hinv.busy_iff_running.mpr hp) hq
    exact ⟨s.delayLeft + 2, u, v, vs, le_rfl, h⟩
  · have hb : s.status.busy = false := by simpa [hp] using hinv.busy_iff_running
    exact ⟨_, _, step_wait_idle hr hp hb hq, rfl, rfl, hb, rfl, (Status.toWord_getLsbD_zero _).trans hb⟩

end Sys2Proof.Machine
end

section
/-! ## The segmentation of a text, and SEGMENT

The loop of 40_segmenter R123 cuts the text into runs, one for each segment: `Tiling` says how, and each statement about the
segments is an induction over it. SEGMENT leaves that segmentation, or rejects the text. -/

namespace Sys2Proof.Machine

/-- Whether a mode is BYTE: the two sides between which the segments alternate (40_segmenter R124). -/
def Mode.isByte (m : Mode) : Bool := decide (m = .byte)

theorem Mode.isByte_iff {m : Mode} : m.isByte = true ↔ m = .byte := decide_eq_true_iff

/-- The bytes are those of one segment of the mode: at least one, each in the mode's class, and in an ALNUM segment not all
class N (40_segmenter R124, R125). -/
def Mode.Holds (m : Mode) (bs : List Byte) : Prop :=
  match m with
  | .num => bs ≠ [] ∧ ∀ b ∈ bs, classOf b = .n
  | .alnum => (∀ b ∈ bs, classOf b = .n ∨ classOf b = .a) ∧ ∃ b ∈ bs, classOf b = .a
  | .byte => bs ≠ [] ∧ ∀ b ∈ bs, classOf b = .b

/-- Every segment has at least one byte (40_segmenter R124). -/
theorem Mode.Holds.length_pos {m : Mode} {bs : List Byte} (h : m.Holds bs) : 0 < bs.length := by
  cases m with
  | num => exact List.length_pos_iff.mpr h.1
  | alnum =>
    obtain ⟨-, b, hb, -⟩ := h
    exact List.length_pos_of_mem hb
  | byte => exact List.length_pos_iff.mpr h.1

/-- A character's own mode holds it (40_segmenter R123). -/
theorem modeOf_holds (b : Byte) : (modeOf (classOf b)).Holds [b] := by
  cases h : classOf b <;> simp [modeOf, Mode.Holds, h]

/-- A character that joins the segment is in the class of the segment's new mode, which is BYTE where the old one was
(40_segmenter R123). -/
theorem Mode.Holds.join {m m' : Mode} {bs : List Byte} {b : Byte} (h : m.Holds bs)
    (hm : joinMode m (classOf b) = some m') : m'.Holds (bs ++ [b]) ∧ m'.isByte = m.isByte := by
  cases m <;> cases hb : classOf b <;> rw [hb] at hm <;> cases hm
  case num.n => exact ⟨⟨by simp, by simpa [or_imp, forall_and, hb] using h.2⟩, rfl⟩
  case num.a =>
    exact ⟨⟨by simpa [or_imp, forall_and, hb] using fun x hx => .inl (h.2 x hx), b, by simp, hb⟩, rfl⟩
  case alnum.n =>
    obtain ⟨hall, x, hx, hxa⟩ := h
    exact ⟨⟨by simpa [or_imp, forall_and, hb] using hall, x, by simp [hx], hxa⟩, rfl⟩
  case alnum.a => exact ⟨⟨by simpa [or_imp, forall_and, hb] using h.1, b, by simp, hb⟩, rfl⟩
  case byte.b => exact ⟨⟨by simp, by simpa [or_imp, forall_and, hb] using h.2⟩, rfl⟩

/-- A character that closes the segment is on the other side of BYTE (40_segmenter R123). -/
theorem modeOf_isByte_of_joinMode_none {m : Mode} {c : CharClass} (h : joinMode m c = none) :
    (modeOf c).isByte = !m.isByte :=
  match m, c, h with
  | .num, .b, _ | .alnum, .b, _ | .byte, .n, _ | .byte, .a, _ => rfl

/-- The segments cut the bytes, from text index i on, into runs that their modes hold, BYTE and other segments in turn; the
first is BYTE exactly where the flag is set (40_segmenter R124, R125). -/
inductive Tiling : Bool → Nat → List Byte → List Segment → Prop
  | nil (byte : Bool) (i : Nat) : Tiling byte i [] []
  | cons {m : Mode} {i : Nat} {bs rest : List Byte} {segs : List Segment} (h : m.Holds bs)
      (hrest : Tiling (!m.isByte) (i + bs.length) rest segs) :
      Tiling m.isByte i (bs ++ rest) ({ mode := m, start := i, count := bs.length } :: segs)

/-- The loop tiles the bytes of the current segment and those not yet read (40_segmenter R123). -/
theorem segmentLoop_tiling (l : List Byte) {m : Mode} {bs : List Byte} (h : m.Holds bs) (i : Nat) :
    Tiling m.isByte i (bs ++ l) (segmentLoop { mode := m, start := i, count := bs.length } (i + bs.length) l) := by
  induction l generalizing m bs i with
  | nil => exact .cons h (.nil _ _)
  | cons b rest ih =>
    rw [segmentLoop]
    split
    · next m' hm =>
      obtain ⟨hjoin, hbyte⟩ := h.join hm
      simpa [hbyte, Nat.add_assoc] using ih hjoin i
    · next hm =>
      refine .cons h ?_
      rw [← modeOf_isByte_of_joinMode_none hm]
      exact ih (modeOf_holds b) (i + bs.length)

/-- The segmentation of a text tiles it (40_segmenter R124). -/
theorem segmentText_tiling (t : List Byte) : ∃ byte, Tiling byte 0 t (segmentText t) := by
  cases t with
  | nil => exact ⟨false, .nil _ _⟩
  | cons b rest => exact ⟨_, segmentLoop_tiling rest (modeOf_holds b) 0⟩

namespace Tiling

variable {byte : Bool} {i : Nat} {l : List Byte} {segs : List Segment}

theorem ne_nil (h : Tiling byte i l segs) (hl : l ≠ []) : segs ≠ [] := by
  cases h with
  | nil => exact absurd rfl hl
  | cons => exact List.cons_ne_nil _ _

/-- The counts add up to the number of bytes. -/
theorem sum_count (h : Tiling byte i l segs) : (segs.map Segment.count).sum = l.length := by
  induction h with
  | nil => rfl
  | cons _ _ ih => simp [ih]

/-- Every segment starts where those before it end. -/
theorem start_eq (h : Tiling byte i l segs) {k : Nat} {x : Segment} (hx : segs[k]? = some x) :
    x.start = i + ((segs.take k).map Segment.count).sum := by
  induction h generalizing k with
  | nil => simp at hx
  | cons _ _ ih =>
    cases k with
    | zero =>
      obtain rfl := Option.some.inj hx
      rfl
    | succ k => simp [ih hx, Nat.add_assoc]

/-- The bytes of every segment are held by its mode. -/
theorem holds (h : Tiling byte i l segs) {x : Segment} (hx : x ∈ segs) :
    ∃ k, x.start = i + k ∧ x.mode.Holds ((l.drop k).take x.count) := by
  induction h with
  | nil => cases hx
  | @cons m i bs rest segs hm _ ih =>
    obtain rfl | hx := List.mem_cons.mp hx
    · exact ⟨0, rfl, by simpa using hm⟩
    · obtain ⟨k, hstart, hk⟩ := ih hx
      exact ⟨bs.length + k, by omega, by rwa [List.drop_length_add_append]⟩

/-- The flag says whether the first segment is BYTE. -/
theorem isByte_first (h : Tiling byte i l segs) {x : Segment} (hx : segs[0]? = some x) : x.mode.isByte = byte := by
  cases h with
  | nil => cases hx
  | cons =>
    obtain rfl := Option.some.inj hx
    rfl

/-- Of two adjacent segments exactly one is BYTE. -/
theorem isByte_next (h : Tiling byte i l segs) {k : Nat} {x y : Segment} (hx : segs[k]? = some x)
    (hy : segs[k + 1]? = some y) : y.mode.isByte = !x.mode.isByte := by
  induction h generalizing k with
  | nil => cases hx
  | cons _ hrest ih =>
    cases k with
    | zero =>
      obtain rfl := Option.some.inj hx
      exact hrest.isByte_first hy
    | succ k => exact ih hx hy

end Tiling

theorem segmentText_ne_nil {t : List Byte} (h : t ≠ []) : segmentText t ≠ [] :=
  (segmentText_tiling t).choose_spec.ne_nil h

/-- The bytes of every segment of a text are held by its mode (40_segmenter R125). -/
theorem segmentText_holds {t : List Byte} {x : Segment} (hx : x ∈ segmentText t) :
    x.mode.Holds ((t.drop x.start).take x.count) := by
  obtain ⟨_, ht⟩ := segmentText_tiling t
  obtain ⟨k, hstart, hk⟩ := ht.holds hx
  rwa [hstart, Nat.zero_add]

/-- Settles O37: the tiling gives the counts and the starts; a run that a mode holds is not empty. -/
theorem segmentationTiles : Obligations.SegmentationTiles := by
  intro t hne
  obtain ⟨_, ht⟩ := segmentText_tiling t
  refine ⟨ht.ne_nil hne, segmentText_length_le t, ht.sum_count, fun k x hx => ⟨?_, by simpa using ht.start_eq hx⟩⟩
  have hpos := (segmentText_holds (List.mem_of_getElem? hx)).length_pos
  rw [List.length_take] at hpos
  omega

/-- Settles O38: each segment's mode holds its bytes, and the tiling alternates. -/
theorem segmentationAlphabets : Obligations.SegmentationAlphabets := by
  intro t
  refine ⟨fun x hx => ?_, fun k x y hx hy => ?_⟩
  · have h := segmentText_holds hx
    refine ⟨fun hm => ?_, fun hm => ?_, fun hm => ?_⟩ <;> rw [hm] at h
    · exact h.2
    · exact h
    · exact h.2
  · obtain ⟨_, ht⟩ := segmentText_tiling t
    have hnext := ht.isByte_next hx hy
    rw [← Mode.isByte_iff, ne_eq, ← Mode.isByte_iff, hnext]
    simp

/-- Settles O39: by the lengths of the three packings. -/
theorem packedLength : Obligations.PackedLength := by
  refine ⟨pack_length, fun _ => rfl, fun n => ⟨?_, rfl, rfl⟩⟩
  obtain h | h | h : n % 3 = 0 ∨ n % 3 = 1 ∨ n % 3 = 2 := by omega
  · simp [dataBits, h]
  · simp [dataBits, h]
  · simp [dataBits, h]

/-! ### The SEGMENT command -/

/-- SEGMENT of a text that its checks reject (40_segmenter R131). -/
theorem exec_segment_rejected {s : State} (h : s.textLen = 0 ∨ s.cfg.textMax < s.textLen) :
    exec .segment s = .next (s.segmentStart.complete .invalidInput) := by
  obtain ⟨-, hs⟩ | ⟨h1, hn, -⟩ := segmentStage_cases s
  · rw [exec_eq, commandStage, hs]
    rfl
  · omega

/-- SEGMENT of a text of legal length (40_segmenter R130). -/
theorem exec_segment_legal {s : State} (h1 : 1 ≤ s.textLen) (hn : s.textLen ≤ s.cfg.textMax) :
    exec .segment s = .next (s.segmented.complete .none) := by
  obtain ⟨h, -⟩ | ⟨-, -, hs⟩ := segmentStage_cases s
  · omega
  · rw [exec_eq, commandStage, hs]
    rfl

/-- A completion sets the common completion bits, and OVR is as the body left it (60_exceptions R307, R308). -/
theorem CommandFrame.completedWith {s t : State} (h : CommandFrame s t) (e : ErrCode) :
    CompletedWith s (t.complete e) e := ⟨rfl, rfl, rfl, rfl, rfl, h.ovr⟩

/-- A body that draws no free value and keeps the delay changes nothing but its results (10_state R20). -/
theorem CommandFrame.engineFrame {s t : State} (h : CommandFrame s t) (hdelay : t.delayLeft = s.delayLeft)
    (hdraws : t.draws = s.draws) (e : ErrCode) : EngineFrame s (t.complete e) :=
  ⟨h.cfg, h.cmd, h.latchedOp, h.conf, h.resetLine, h.hostQueue, h.hostReads, hdelay, hdraws, h.epoch⟩

theorem State.segmentStart_frame (s : State) : CommandFrame s s.segmentStart := by constructor <;> rfl

theorem State.segmented_frame (s : State) : CommandFrame s s.segmented := by constructor <;> rfl

/-- The completion keeps the results of a segmentation. -/
theorem SegmentResults.complete {s t : State} (h : SegmentResults s t) (e : ErrCode) : SegmentResults s (t.complete e) :=
  ⟨h.segv, h.count, h.entries, h.listed⟩

/-- SEGMENT changes no byte but the entries it writes (10_state R48). -/
theorem State.segmented_sameBytes {s : State} (hc : s.cfg.wellFormed = true) (hn : s.textLen ≤ s.cfg.textMax) :
    SameBytesOutside s s.segmented 0x20000 (16 * s.segmented.segCount.toNat) := by
  rw [(State.segmented_holds hc hn).count, ← segTable_length]
  exact fun a ha => (s.writeBytes_writesOnly 0x20000 _).byteAt ha

/-- Settles O22: the body writes the table of the text's segmentation, which has at least one segment and at most one for
each byte. -/
theorem segmentCompletes : Obligations.SegmentCompletes := by
  intro s hc h1 hn
  have hres := State.segmented_results hc hn
  have hne : segmentText (s.textBytes 0 s.textLen) ≠ [] :=
    segmentText_ne_nil (List.ne_nil_of_length_pos (by rw [State.textBytes_length]; exact h1))
  have hle := segmentText_length_le (s.textBytes 0 s.textLen)
  rw [State.textBytes_length, ← hres.count] at hle
  exact ⟨_, exec_segment_legal h1 hn, s.segmented_frame.completedWith _, s.segmented_frame.engineFrame rfl rfl _,
    hres.complete _, hres.count ▸ List.length_pos_iff.mpr hne, hle, rfl, rfl, rfl, rfl, State.segmented_sameBytes hc hn⟩

/-- Settles O23: the body raises at its checks, with SEGV and SEG_COUNT cleared before. -/
theorem segmentRejects : Obligations.SegmentRejects :=
  fun s h => ⟨_, exec_segment_rejected h, s.segmentStart_frame.completedWith _,
    s.segmentStart_frame.engineFrame rfl rfl _, rfl, rfl, rfl, rfl, rfl, rfl, rfl⟩

end Sys2Proof.Machine
end

section
/-! ## The data codewords of a symbol

The capacity table and its block split, the choice of the version, the codewords that carry the bitstream, and BUILD's report
where no version fits. -/

namespace Sys2Proof.Machine

/-! ### The capacity table -/

/-- The finite facts of Table 41-1 (41_bitstream R155): TOTAL is the closed form, every version and level has a block, every
block has room for a data codeword beside its EC codewords, and EC is at most 30. -/
theorem capacityTable_rows {v : Nat} (h1 : 1 ≤ v) (h2 : v ≤ 40) (lv : Level) :
    totalCw v = rawModules v / 8 ∧ 1 ≤ numBlocks v lv ∧ (ecPerBlock v lv + 1) * numBlocks v lv ≤ totalCw v
      ∧ ecPerBlock v lv ≤ 30 := by
  have h : ∀ u : Fin 41, 1 ≤ u.val → ∀ lev ∈ [Level.l, .m, .q, .h],
      totalCw u = rawModules u / 8 ∧ 1 ≤ numBlocks u lev ∧ (ecPerBlock u lev + 1) * numBlocks u lev ≤ totalCw u
        ∧ ecPerBlock u lev ≤ 30 := by decide +kernel
  exact h ⟨v, by omega⟩ h1 lv (by cases lv <;> simp)

/-- Settles O42: n_long is a remainder modulo the number of blocks, the EC codewords leave each block a data codeword, and
the data lengths of the blocks add up to DATA. -/
theorem capacityTables : Obligations.CapacityTables := by
  intro v lv h1 h2
  obtain ⟨htotal, hblocks, hroom, hec⟩ := capacityTable_rows h1 h2 lv
  have hlong : numLong v lv < numBlocks v lv := Nat.mod_lt _ hblocks
  have hshort : ecPerBlock v lv + 1 ≤ totalCw v / numBlocks v lv := (Nat.le_div_iff_mul_le hblocks).mpr hroom
  have hle : ecPerBlock v lv * numBlocks v lv ≤ totalCw v :=
    (Nat.mul_le_mul_right _ (Nat.le_succ _)).trans hroom
  have hsum := (block_sums h1 h2 lv).1
  refine ⟨htotal, Nat.sub_add_cancel hle, Nat.sub_add_cancel hlong.le, Nat.sub_pos_of_lt hlong,
    Nat.le_sub_of_add_le' hshort, ?_, hec⟩
  simpa [blockDataLens] using hsum

/-! ### The version -/

theorem versionFits_iff {ss : List SegData} {lv : Level} {v : Nat} :
    versionFits ss lv v = true ↔ (∀ x ∈ ss, x.count < 2 ^ ccBits x.mode v) ∧ requiredBytes ss v ≤ dataCw v lv := by
  simp [versionFits]

/-- select_version is a search upwards from version 1 (41_bitstream R157). -/
theorem selectVersion_eq_some_iff {ss : List SegData} {lv : Level} {v : Nat} :
    selectVersion ss lv = some v ↔
      1 ≤ v ∧ v ≤ 40 ∧ versionFits ss lv v = true ∧ ∀ u, 1 ≤ u → u < v → ¬versionFits ss lv u = true := by
  rw [selectVersion, List.find?_range'_eq_some, List.mem_range'_1]
  simp only [Bool.not_eq_true', Bool.not_eq_true]
  constructor
  · rintro ⟨hfit, ⟨h1, h2⟩, hmin⟩
    exact ⟨h1, by omega, hfit, hmin⟩
  · rintro ⟨h1, h2, hfit, hmin⟩
    exact ⟨hfit, ⟨h1, by omega⟩, hmin⟩

/-- The search fails exactly where no version fits (41_bitstream R157). -/
theorem selectVersion_eq_none_iff {ss : List SegData} {lv : Level} :
    selectVersion ss lv = none ↔ ∀ v, 1 ≤ v → v ≤ 40 → ¬versionFits ss lv v = true := by
  rw [selectVersion, List.find?_range'_eq_none]
  simp only [Bool.not_eq_true', Bool.not_eq_true]
  exact forall₂_congr fun v _ => imp_congr_left (by omega)

/-- Settles O40: the search finds the first version that fits. -/
theorem selectVersionSmallest : Obligations.SelectVersionSmallest := by
  intro ss lv
  simp only [← versionFits_iff]
  exact ⟨fun v => selectVersion_eq_some_iff, selectVersion_eq_none_iff⟩

/-! ### Codewords and their bits -/

theorem natOfBits_concat (bs : List Bool) (b : Bool) : natOfBits (bs ++ [b]) = 2 * natOfBits bs + b.toNat := by
  simp [natOfBits]

theorem natOfBits_lt (bs : List Bool) : natOfBits bs < 2 ^ bs.length := by
  induction bs using List.reverseRecOn with
  | nil => decide
  | append_singleton bs b ih =>
    have := b.toNat_le
    rw [natOfBits_concat, List.length_append, List.length_singleton, Nat.pow_succ]
    omega

/-- The last bit of a sequence is the value's lowest. -/
theorem bitsMsb_succ (w x : Nat) : bitsMsb (w + 1) x = bitsMsb w (x / 2) ++ [x.testBit 0] := by
  simp only [bitsMsb, List.range_succ, List.map_append, List.map_cons, List.map_nil, Nat.add_sub_cancel, Nat.sub_self]
  refine congrArg (· ++ _) (List.map_congr_left fun i hi => ?_)
  have hi := List.mem_range.mp hi
  rw [show w - i = (w - 1 - i) + 1 by omega, Nat.testBit_add_one]

/-- The bits of the value of a bit sequence are that sequence (00_scope R8). -/
theorem bitsMsb_natOfBits (bs : List Bool) : bitsMsb bs.length (natOfBits bs) = bs := by
  induction bs using List.reverseRecOn with
  | nil => rfl
  | append_singleton bs b ih =>
    have hhalf : (2 * natOfBits bs + b.toNat) / 2 = natOfBits bs := by have := b.toNat_le; omega
    have hlow : (2 * natOfBits bs + b.toNat).testBit 0 = b := by cases b <;> simp [Nat.testBit_zero]
    rw [natOfBits_concat, List.length_append, List.length_singleton, bitsMsb_succ, hhalf, hlow, ih]

/-- A codeword made of eight bits holds those bits (41_bitstream R162). -/
theorem bitsOfByte_ofNat_natOfBits {bs : List Bool} (h : bs.length = 8) :
    bitsOfByte (BitVec.ofNat 8 (natOfBits bs)) = bs := by
  have hlt := natOfBits_lt bs
  have hbits := bitsMsb_natOfBits bs
  rw [h] at hlt hbits
  rw [bitsOfByte, BitVec.toNat_ofNat, Nat.mod_eq_of_lt hlt, hbits]

/-- Whole groups of eight bits lose nothing when they are cut into codewords (41_bitstream R162). -/
theorem flatMap_bitsOfByte_bytesOfBits : ∀ {bs : List Bool}, bs.length % 8 = 0 → (bytesOfBits bs).flatMap bitsOfByte = bs
  | b7 :: b6 :: b5 :: b4 :: b3 :: b2 :: b1 :: b0 :: rest, h => by
    have hrest : rest.length % 8 = 0 := by simp only [List.length_cons] at h; omega
    rw [bytesOfBits, List.flatMap_cons, flatMap_bitsOfByte_bytesOfBits hrest, bitsOfByte_ofNat_natOfBits rfl]
    rfl
  | [], _ => rfl

/-! ### The data codewords -/

/-- The terminator and the padding to bytes are zero bits up to 8*required_bytes bits (41_bitstream R160, R161). -/
theorem padToByte_bitstream (ss : List SegData) (v : Nat) :
    padToByte (bitstream ss v ++ [false, false, false, false])
      = bitstream ss v ++ List.replicate (8 * requiredBytes ss v - (bitstream ss v).length) false := by
  have hlen := bitstream_length ss v
  have hterm : [false, false, false, false] = List.replicate 4 false := rfl
  rw [padToByte, hterm, List.append_assoc, List.replicate_append_replicate, List.length_append, List.length_replicate, hlen,
    requiredBytes]
  congr 2
  omega

theorem padToByte_bitstream_length (ss : List SegData) (v : Nat) :
    (padToByte (bitstream ss v ++ [false, false, false, false])).length = 8 * requiredBytes ss v := by
  have hlen := bitstream_length ss v
  rw [padToByte_bitstream, List.length_append, List.length_replicate, requiredBytes]
  omega

/-- The codewords that carry the bitstream are required_bytes many (41_bitstream R162). -/
theorem streamCodewords_length (ss : List SegData) (v : Nat) :
    (bytesOfBits (padToByte (bitstream ss v ++ [false, false, false, false]))).length = requiredBytes ss v := by
  rw [bytesOfBits_length, padToByte_bitstream_length, Nat.mul_div_cancel_left _ (by decide)]

theorem padCodewords_getElem? {n j : Nat} (h : j < n) :
    (padCodewords n)[j]? = some (if j % 2 = 0 then 0xEC else 0x11) := by
  simp [padCodewords, h]

/-- Settles O41: D is the codewords of the padded bitstream, required_bytes many, and then the pad codewords. -/
theorem dataCodewordsFill : Obligations.DataCodewordsFill := by
  intro ss lv v hfit
  have hstream := streamCodewords_length ss v
  refine ⟨bitstream_length ss v, ?_, dataCodewords_length hfit, fun j hj => ?_⟩
  · rw [dataCodewords, List.take_left' hstream, ← padToByte_bitstream]
    exact flatMap_bitsOfByte_bytesOfBits (by rw [padToByte_bitstream_length, Nat.mul_mod_right])
  · rw [dataCodewords, List.getElem?_append_right (by omega), hstream, Nat.add_sub_cancel_left]
    exact padCodewords_getElem? (by omega)

/-! ### BUILD where no version fits -/

@[simp] theorem Level.toBits_ofBits (x : BitVec 2) : (Level.ofBits x).toBits = x := by
  revert x
  decide

/-- BUILD of a valid table works on its segments (44_mask_penalty R250). -/
theorem buildStage_segments {s : State} {segs : List Segment} (hv : s.status.segv = true) (hs : s.segments = some segs) :
    buildStage s = buildSegments s.buildStart (segs.map s.segData) s.level := by
  simp [buildStage, hv, hs]

/-- BUILD of segments that no version holds ends with its report (41_bitstream R158). -/
theorem exec_build_tooLong {s : State} {segs : List Segment} (hv : s.status.segv = true) (hs : s.segments = some segs)
    (hnone : selectVersion (segs.map s.segData) s.level = none) :
    exec .build s = .next ((s.buildStart.reportTooLong (segs.map s.segData) s.level).complete .dataTooLong) := by
  rw [exec_eq, commandStage, buildStage_segments hv hs, buildSegments_tooLong _ hnone]
  rfl

theorem State.reportTooLong_frame (s : State) (ss : List SegData) (lv : Level) :
    CommandFrame s (s.buildStart.reportTooLong ss lv) := by constructor <;> rfl

/-- Settles O26: the search for a version fails, and the report's three fields are all that BUILD writes; DATA of version 40
fits the 12 bits of CAP_BYTES. -/
theorem buildTooLong : Obligations.BuildTooLong := by
  intro s segs hv hs hlong
  have hnone : selectVersion (segs.map s.segData) s.level = none := by
    refine selectVersion_eq_none_iff.mpr fun v h1 h2 hfit => ?_
    obtain ⟨hcounts, hbytes⟩ := versionFits_iff.mp hfit
    obtain ⟨x, hx, hcount⟩ | hcap := hlong v h1 h2
    · exact (hcounts x hx).not_ge hcount
    · exact hbytes.not_gt hcap
  have hframe := s.reportTooLong_frame (segs.map s.segData) s.level
  have hbuild : (s.buildStart.reportTooLong (segs.map s.segData) s.level).build
      = { reqBytes := BitVec.ofNat 32 (requiredBytes (segs.map s.segData) 40)
          capBytes := BitVec.ofNat 12 (dataCw 40 s.level), levelUsed := s.conf.eclReq } := by
    simp [State.reportTooLong, State.level]
  have hcap : (BitVec.ofNat 12 (dataCw 40 s.level)).toNat = dataCw 40 s.level :=
    Nat.mod_eq_of_lt (by have := (codeword_bounds le_rfl s.level).1; omega)
  refine ⟨_, exec_build_tooLong hv hs hnone, hframe.completedWith _, hframe.engineFrame rfl rfl _, hv, rfl, rfl, ?_, ?_,
    rfl, rfl, rfl⟩
  · rw [State.complete_build, hbuild]
  · rw [State.complete_build, hbuild, hcap]

end Sys2Proof.Machine
end

section
/-! ## GF(256) and Reed-Solomon

Doubling is linear, and multiplying by a byte other than 0 doubles as many times as its logarithm says: the field laws, and the
agreement with polynomial multiplication, are those of the iterates of doubling. A polynomial is then evaluated by Horner's
rule, whose value at a root of the generator the division register keeps at 0. -/

namespace Sys2Proof.Machine

/-! ### Doubling and the tables -/

/-- Doubling as a shift, reduced by the low byte of 0x11D where bit 7 falls out (42_reed_solomon R181). -/
theorem gfDouble_eq_shiftLeft (x : Byte) : gfDouble x = x <<< 1 ^^^ if x.msb then 0x1D else 0 := by
  revert x
  decide +kernel

theorem gfDouble_zero : gfDouble 0 = 0 := by decide

/-- Doubling is linear over GF(2) (42_reed_solomon R180). -/
theorem gfDouble_xor (x y : Byte) : gfDouble (x ^^^ y) = gfDouble x ^^^ gfDouble y := by
  have hmsb : (if (x ^^^ y).msb then (0x1D : Byte) else 0)
      = (if x.msb then 0x1D else 0) ^^^ if y.msb then 0x1D else 0 := by
    rw [BitVec.msb_xor]
    cases x.msb <;> cases y.msb <;> rfl
  rw [gfDouble_eq_shiftLeft, gfDouble_eq_shiftLeft, gfDouble_eq_shiftLeft, hmsb, BitVec.shiftLeft_xor_distrib]
  ac_rfl

theorem gfDouble_iterate_zero (n : Nat) : gfDouble^[n] 0 = 0 := Function.iterate_fixed gfDouble_zero n

theorem gfDouble_iterate_xor (n : Nat) (x y : Byte) : gfDouble^[n] (x ^^^ y) = gfDouble^[n] x ^^^ gfDouble^[n] y := by
  induction n generalizing x y with
  | zero => rfl
  | succ n ih => simp only [Function.iterate_succ_apply, gfDouble_xor, ih]

theorem gfPowers_getElem? {n i : Nat} (x : Byte) (h : i < n) : (gfPowers n x)[i]? = some (gfDouble^[i] x) := by
  induction n generalizing i x with
  | zero => omega
  | succ n ih =>
    cases i with
    | zero => rfl
    | succ i => exact ih (gfDouble x) (by omega)

theorem gfExp_eq_iterate {i : Nat} (h : i < 255) : gfExp i = gfDouble^[i] 1 := by
  rw [gfExp, expTable, List.getD_eq_getElem?_getD, gfPowers_getElem? 1 h]
  rfl

/-- alpha^255 = 1 (42_reed_solomon R181). -/
theorem gfDouble_iterate_period : gfDouble^[255] 1 = 1 := by decide +kernel

theorem gfExp_mod (n : Nat) : gfExp (n % 255) = gfDouble^[n] 1 := by
  rw [gfExp_eq_iterate (Nat.mod_lt n (by decide))]
  exact Function.IsPeriodicPt.iterate_mod_apply gfDouble_iterate_period n

theorem gfPowers_length (n : Nat) (x : Byte) : (gfPowers n x).length = n := by
  induction n generalizing x with
  | zero => rfl
  | succ n ih => rw [gfPowers, List.length_cons, ih]

theorem expTable_length : expTable.length = 255 := gfPowers_length 255 1

/-- The antilog table lists every nonzero byte (42_reed_solomon R181). -/
theorem mem_expTable {a : Byte} (h : a ≠ 0) : a ∈ expTable := by
  revert a
  decide +kernel

theorem expTable_nodup : expTable.Nodup := by decide +kernel

theorem gfLog_lt {a : Byte} (h : a ≠ 0) : gfLog a < 255 :=
  (List.idxOf_lt_length_of_mem (mem_expTable h)).trans_eq expTable_length

theorem gfExp_gfLog {a : Byte} (h : a ≠ 0) : gfExp (gfLog a) = a := by
  have hlt : gfLog a < expTable.length := List.idxOf_lt_length_of_mem (mem_expTable h)
  rw [gfExp, List.getD_eq_getElem _ _ hlt]
  exact List.getElem_idxOf hlt

theorem gfLog_gfExp {i : Nat} (h : i < 255) : gfLog (gfExp i) = i := by
  have hlt : i < expTable.length := h.trans_eq expTable_length.symm
  rw [gfExp, List.getD_eq_getElem _ _ hlt]
  exact expTable_nodup.idxOf_getElem i hlt

theorem gfDouble_iterate_gfLog {a : Byte} (h : a ≠ 0) : gfDouble^[gfLog a] 1 = a := by
  rw [← gfExp_eq_iterate (gfLog_lt h), gfExp_gfLog h]

/-! ### Multiplication -/

theorem gfMul_zero (a : Byte) : gfMul a 0 = 0 := if_pos (.inr rfl)

theorem zero_gfMul (a : Byte) : gfMul 0 a = 0 := if_pos (.inl rfl)

theorem gfMul_comm (a b : Byte) : gfMul a b = gfMul b a := by
  simp only [gfMul, or_comm, Nat.add_comm]

/-- A product doubles one factor as many times as the logarithm of the other says. -/
theorem gfMul_eq_iterate (a : Byte) {b : Byte} (h : b ≠ 0) : gfMul a b = gfDouble^[gfLog b] a := by
  by_cases ha : a = 0
  · rw [ha, zero_gfMul, gfDouble_iterate_zero]
  · rw [gfMul, if_neg (not_or.mpr ⟨ha, h⟩), gfExp_mod, Nat.add_comm, Function.iterate_add_apply,
      gfDouble_iterate_gfLog ha]

theorem gfMul_one (a : Byte) : gfMul a 1 = a := gfMul_eq_iterate a (by decide)

theorem xor_gfMul (a b c : Byte) : gfMul (a ^^^ b) c = gfMul a c ^^^ gfMul b c := by
  by_cases hc : c = 0
  · simp only [hc, gfMul_zero, BitVec.xor_self]
    rfl
  · simp only [gfMul_eq_iterate _ hc, gfDouble_iterate_xor]

theorem gfMul_assoc (a b c : Byte) : gfMul (gfMul a b) c = gfMul a (gfMul b c) := by
  by_cases ha : a = 0
  · simp only [ha, zero_gfMul]
  by_cases hc : c = 0
  · simp only [hc, gfMul_zero]
  rw [gfMul_comm a b, gfMul_comm a (gfMul b c)]
  simp only [gfMul_eq_iterate _ ha, gfMul_eq_iterate _ hc]
  exact Function.Commute.iterate_iterate_self gfDouble (gfLog c) (gfLog a) b

theorem gfMulPoly_zero (a : Byte) : gfMulPoly a 0 = 0 := by
  revert a
  decide +kernel

theorem gfMulPoly_one (a : Byte) : gfMulPoly a 1 = a := by
  revert a
  decide +kernel

/-- The step of `gfMulPoly` for one bit of a (42_reed_solomon R180). -/
def gfMulPolyStep (a b acc : Byte) (i : Nat) : Byte := gfDouble acc ^^^ if a.getLsbD (7 - i) then b else 0

theorem gfMulPoly_eq_foldl (a b : Byte) : gfMulPoly a b = (List.range 8).foldl (gfMulPolyStep a b) 0 := rfl

theorem gfMulPolyStep_gfDouble (a b acc : Byte) (i : Nat) :
    gfMulPolyStep a (gfDouble b) (gfDouble acc) i = gfDouble (gfMulPolyStep a b acc i) := by
  rw [gfMulPolyStep, gfMulPolyStep, gfDouble_xor, apply_ite gfDouble, gfDouble_zero]

theorem gfMulPoly_gfDouble (a b : Byte) : gfMulPoly a (gfDouble b) = gfDouble (gfMulPoly a b) := by
  rw [gfMulPoly_eq_foldl, gfMulPoly_eq_foldl, ← List.foldl_hom gfDouble (gfMulPolyStep_gfDouble a b), gfDouble_zero]

theorem gfMulPoly_iterate (a b : Byte) (n : Nat) : gfMulPoly a (gfDouble^[n] b) = gfDouble^[n] (gfMulPoly a b) :=
  Function.Semiconj.iterate_right (f := gfMulPoly a) (gfMulPoly_gfDouble a) n b

/-- Settles O44: each product doubles its first factor as many times as the logarithm of the second says, and the tables
list every nonzero byte once. -/
theorem tablesMultiply : Obligations.TablesMultiply := by
  refine ⟨fun a b => ?_, fun a h => ⟨gfLog_lt h, gfExp_gfLog h⟩, fun i h => gfLog_gfExp h⟩
  by_cases hb : b = 0
  · rw [hb, gfMul_zero, gfMulPoly_zero]
  · calc gfMul a b
      _ = gfDouble^[gfLog b] (gfMulPoly a 1) := by rw [gfMul_eq_iterate a hb, gfMulPoly_one]
      _ = gfMulPoly a b := by rw [← gfMulPoly_iterate, gfDouble_iterate_gfLog hb]

/-! ### The value of a polynomial -/

/-- Horner's rule at x from a value on, the first codeword being the highest coefficient. -/
def gfHorner (x acc : Byte) (p : List Byte) : Byte := p.foldl (fun acc c => gfMul acc x ^^^ c) acc

section
variable (x acc : Byte)

@[simp] theorem gfHorner_nil : gfHorner x acc [] = acc := rfl

@[simp] theorem gfHorner_cons (c : Byte) (p : List Byte) : gfHorner x acc (c :: p) = gfHorner x (gfMul acc x ^^^ c) p := rfl

/-- A first codeword is the value to go on from. -/
theorem gfHorner_zero_cons (c : Byte) (p : List Byte) : gfHorner x 0 (c :: p) = gfHorner x c p := by
  rw [gfHorner_cons, zero_gfMul]
  exact congrArg (gfHorner x · p) BitVec.zero_xor

theorem gfHorner_append (p q : List Byte) : gfHorner x acc (p ++ q) = gfHorner x (gfHorner x acc p) q :=
  List.foldl_append

/-- The value of a polynomial times its variable. -/
theorem gfHorner_shift (p : List Byte) : gfHorner x acc (p ++ [0]) = gfMul (gfHorner x acc p) x := by
  simp [gfHorner_append]

/-- The value of a sum of two polynomials of one length. -/
theorem gfHorner_xor {p q : List Byte} (h : p.length = q.length) (a b : Byte) :
    gfHorner x (a ^^^ b) (List.zipWith (· ^^^ ·) p q) = gfHorner x a p ^^^ gfHorner x b q := by
  induction p generalizing q a b with
  | nil =>
    rw [List.length_eq_zero_iff.mp h.symm]
    rfl
  | cons c p ih =>
    obtain ⟨d, q, rfl⟩ := List.exists_cons_of_length_eq_add_one h.symm
    have hacc : gfMul (a ^^^ b) x ^^^ (c ^^^ d) = (gfMul a x ^^^ c) ^^^ (gfMul b x ^^^ d) := by
      rw [xor_gfMul]
      ac_rfl
    rw [List.zipWith_cons_cons, gfHorner_cons, gfHorner_cons, gfHorner_cons, hacc, ih (Nat.succ.inj h)]

/-- The value of a multiple of a polynomial. -/
theorem gfHorner_map_gfMul (f : Byte) (p : List Byte) :
    gfHorner x (gfMul f acc) (p.map (gfMul f)) = gfMul f (gfHorner x acc p) := by
  induction p generalizing acc with
  | nil => rfl
  | cons c p ih =>
    rw [List.map_cons, gfHorner_cons, gfHorner_cons, ← ih]
    congr 1
    rw [gfMul_assoc, gfMul_comm f (_ ^^^ _), xor_gfMul, gfMul_comm _ f, gfMul_comm c]

end

/-! ### The generator and the division register -/

/-- g_E is monic (42_reed_solomon R182). -/
theorem genPoly_eq_cons (e : Nat) : genPoly e = 1 :: (genPoly e).tail := by
  induction e with
  | zero => rfl
  | succ e ih =>
    rw [genPoly, ih]
    rfl

/-- g_{E+1} = g_E * (x - alpha^E), at every x (42_reed_solomon R182). -/
theorem gfHorner_genPoly_succ {e : Nat} (he : e < 255) (x : Byte) :
    gfHorner x 0 (genPoly (e + 1)) = gfMul (gfHorner x 0 (genPoly e)) (x ^^^ gfExp e) := by
  have hcons : gfHorner x 0 (0 :: (genPoly e).map (gfMul (gfExp e))) = gfMul (gfHorner x 0 (genPoly e)) (gfExp e) := by
    rw [gfHorner_zero_cons, gfMul_comm, ← gfHorner_map_gfMul, gfMul_zero]
  calc gfHorner x 0 (genPoly (e + 1))
    _ = gfHorner x 0 (genPoly e ++ [0]) ^^^ gfHorner x 0 (0 :: (genPoly e).map (gfMul (gfExp e))) := by
      rw [genPoly, Nat.mod_eq_of_lt he, ← gfHorner_xor x (by simp)]
      rfl
    _ = gfMul (gfHorner x 0 (genPoly e)) (x ^^^ gfExp e) := by
      rw [gfHorner_shift, hcons, gfMul_comm _ (x ^^^ _), xor_gfMul, gfMul_comm x, gfMul_comm (gfExp e)]

/-- g_E is zero at alpha^i for each i < E (42_reed_solomon R182). -/
theorem gfHorner_genPoly {e i : Nat} (he : e ≤ 255) (hi : i < e) : gfHorner (gfExp i) 0 (genPoly e) = 0 := by
  induction e with
  | zero => omega
  | succ e ih =>
    rw [gfHorner_genPoly_succ (by omega)]
    obtain hlt | rfl : i < e ∨ i = e := by omega
    · rw [ih (by omega) hlt, zero_gfMul]
    · rw [BitVec.xor_self]
      exact gfMul_zero _

/-- The register shifts, and a multiple of the generator is added (42_reed_solomon R183). -/
theorem rsStep_eq (g r : List Byte) (c : Byte) :
    rsStep g r c = List.zipWith (· ^^^ ·) (r.tail ++ [0]) (g.map (gfMul (c ^^^ r.headD 0))) := by
  simp only [rsStep, List.zipWith_map_right, gfMul_comm _ (c ^^^ _)]

/-- Where the codewords so far and the register after them are zero at x, a root of the generator, so are the codewords with
the next one and the register after it (42_reed_solomon R183). -/
theorem gfHorner_rsStep {x acc : Byte} {g r : List Byte} (hg : gfHorner x 0 (1 :: g) = 0) (hr : r.length = g.length)
    (hne : r ≠ []) (h : gfHorner x acc r = 0) (c : Byte) : gfHorner x (gfMul acc x ^^^ c) (rsStep g r c) = 0 := by
  obtain ⟨b, r, rfl⟩ := List.exists_cons_of_ne_nil hne
  have hacc : gfMul acc x ^^^ c = (gfMul acc x ^^^ b) ^^^ (c ^^^ b) := by
    rw [BitVec.xor_comm c b, BitVec.xor_assoc, ← BitVec.xor_assoc b, BitVec.xor_self, BitVec.zero_xor]
  have hmonic : gfHorner x 1 g = 0 := by rwa [gfHorner_zero_cons] at hg
  have hgen : gfHorner x (c ^^^ b) (g.map (gfMul (c ^^^ b))) = 0 := by
    have hscale := gfHorner_map_gfMul x 1 (c ^^^ b) g
    rwa [gfMul_one, hmonic, gfMul_zero] at hscale
  rw [rsStep_eq, hacc, List.tail_cons, List.headD_cons, gfHorner_xor x (by simpa using hr), hgen, gfHorner_shift]
  rw [gfHorner_cons] at h
  rw [h, zero_gfMul, BitVec.xor_self]
  rfl

/-- From a register that is zero beside the codewords so far, the register stays so (42_reed_solomon R183). -/
theorem gfHorner_rsSteps {x : Byte} {g : List Byte} (hg : gfHorner x 0 (1 :: g) = 0) (hne : g ≠ []) (d : List Byte)
    {acc : Byte} {r : List Byte} (hr : r.length = g.length) (h : gfHorner x acc r = 0) :
    gfHorner x acc (d ++ d.foldl (rsStep g) r) = 0 := by
  induction d generalizing acc r with
  | nil => exact h
  | cons c d ih =>
    have hrne : r ≠ [] := List.ne_nil_of_length_pos (hr ▸ List.length_pos_iff.mpr hne)
    exact ih (rsStep_length c hr) (gfHorner_rsStep hg hr hrne h c)

theorem gfHorner_replicate_zero (x : Byte) (n : Nat) : gfHorner x 0 (List.replicate n 0) = 0 := by
  induction n with
  | zero => rfl
  | succ n ih => rw [List.replicate_succ, gfHorner_zero_cons, ih]

/-- Settles O45: the register starts at zero, and each step keeps the codewords so far and the register zero at every root of
the generator. -/
theorem codewordVanishesAtRoots : Obligations.CodewordVanishesAtRoots := by
  intro d e i he hi
  have hlen : (genPoly e).tail.length = e := by rw [List.length_tail, genPoly_length, Nat.add_sub_cancel]
  have hroot : gfHorner (gfExp i) 0 (1 :: (genPoly e).tail) = 0 := by rw [← genPoly_eq_cons, gfHorner_genPoly he hi]
  exact ⟨rsEc_length d e, gfHorner_rsSteps hroot (List.ne_nil_of_length_pos (by omega)) d
    (List.length_replicate.trans hlen.symm) (gfHorner_replicate_zero _ e)⟩

/-! ### One block -/

/-- The rounds of the interleaving take the codewords of a single list in order (42_reed_solomon R186). -/
theorem roundRobin_singleton (rounds : Nat) (x : List Byte) : roundRobin rounds [x] = x.take rounds := by
  induction rounds with
  | zero => rfl
  | succ k ih =>
    rw [List.take_add_one, ← ih]
    cases h : x[k]? <;> simp [roundRobin, List.range_succ, h]

/-- A version and level of one block has the one data length DATA (42_reed_solomon R184). -/
theorem blockDataLens_eq_singleton {v : Nat} {lv : Level} (h : numBlocks v lv = 1) : blockDataLens v lv = [dataCw v lv] := by
  simp [blockDataLens, numShort, numLong, shortData, dataCw, h, Nat.mod_one]

/-- Settles O43: the blocks hold TOTAL codewords, and one block is taken whole, its data first. -/
theorem finalCodewordsLength : Obligations.FinalCodewordsLength := by
  intro d v lv h1 h2 hd
  refine ⟨finalCodewords_length h1 h2 hd, fun hone => ?_⟩
  have hlens := blockDataLens_eq_singleton hone
  have hle : d.length ≤ shortData v lv + 1 := blockDataLens_le (by rw [hlens, hd]; exact List.mem_singleton_self _)
  have hsplit : splitBlocks d v lv = [{ data := d, ec := rsEc d (ecPerBlock v lv) }] := by
    simp [splitBlocks, hlens, dealOut, ← hd]
  rw [finalCodewords, interleave, hsplit, List.map_singleton, List.map_singleton, roundRobin_singleton,
    roundRobin_singleton, List.take_of_length_le hle, List.take_of_length_le (rsEc_length ..).le]

/-! ### The RS_ENCODE command -/

/-- RS_ENCODE of operands that its checks reject (42_reed_solomon R189). -/
theorem exec_rsEncode_rejected {s : State} (h : s.rsK = 0 ∨ s.rsE = 0 ∨ s.cfg.rsMaxEc < s.rsE ∨ 255 < s.rsK + s.rsE) :
    exec .rsEncode s = .next (s.complete .invalidInput) := by
  obtain ⟨-, hs⟩ | ⟨hl, -⟩ := rsEncodeStage_cases s
  · rw [exec_eq, commandStage, hs]
    rfl
  · have := s.rsLegal_iff.mp hl
    omega

/-- The state RS_ENCODE leaves of legal operands (42_reed_solomon R188). -/
def State.rsEncoded (s : State) : State :=
  s.writeBytes (Window.base .rsBuf + s.rsK) (rsEc (s.rsBytes s.rsK) s.rsE)

/-- RS_ENCODE of legal operands (42_reed_solomon R188). -/
theorem exec_rsEncode_legal {s : State} (hk : s.rsK ≠ 0) (he : s.rsE ≠ 0) (hmax : s.rsE ≤ s.cfg.rsMaxEc)
    (hke : s.rsK + s.rsE ≤ 255) : exec .rsEncode s = .next (s.rsEncoded.complete .none) := by
  obtain ⟨hl, -⟩ | ⟨-, hs⟩ := rsEncodeStage_cases s
  · exact absurd (s.rsLegal_iff.mpr ⟨hk, he, hmax, hke⟩) (by simp [hl])
  · rw [exec_eq, commandStage, hs]
    rfl

theorem State.rsEncoded_frame (s : State) : CommandFrame s s.rsEncoded := by constructor <;> rfl

/-- RS_ENCODE leaves the E codewords of rs_ec behind the K data codewords, all of them written, and every other byte as it was
(42_reed_solomon R188). -/
theorem State.rsEncoded_codewords (s : State) :
    s.rsEncoded.readBytes (0x1000 + s.rsK) s.rsE = rsEc (s.readBytes 0x1000 s.rsK) s.rsE
      ∧ s.rsEncoded.Listed (0x1000 + s.rsK) s.rsE ∧ SameBytesOutside s s.rsEncoded (0x1000 + s.rsK) s.rsE := by
  have hread := s.readBytes_writeBytes (0x1000 + s.rsK) (rsEc (s.rsBytes s.rsK) s.rsE)
  have hlisted := s.listed_writeBytes (0x1000 + s.rsK) (rsEc (s.rsBytes s.rsK) s.rsE)
  have hframe := s.writeBytes_writesOnly (0x1000 + s.rsK) (rsEc (s.rsBytes s.rsK) s.rsE)
  rw [rsEc_length] at hread hlisted hframe
  exact ⟨hread, hlisted, fun a ha => hframe.byteAt ha⟩

/-- Settles O30: the body writes the E codewords as one run of bytes, and the completion changes no byte. -/
theorem rsEncodeCompletes : Obligations.RsEncodeCompletes := by
  intro s hk he hmax hke
  obtain ⟨hread, hlisted, hsame⟩ := s.rsEncoded_codewords
  exact ⟨_, exec_rsEncode_legal hk he hmax hke, s.rsEncoded_frame.completedWith _, s.rsEncoded_frame.engineFrame rfl rfl _,
    hread, hlisted, hsame, rfl, rfl, rfl, rfl, rfl, rfl⟩

/-- Settles O31: the body raises at its checks, before it writes anything. -/
theorem rsEncodeRejects : Obligations.RsEncodeRejects :=
  fun s h => ⟨_, exec_rsEncode_rejected h, (CommandFrame.refl s).completedWith _,
    (CommandFrame.refl s).engineFrame rfl rfl _, rfl, rfl, rfl, rfl, rfl, rfl, rfl⟩

end Sys2Proof.Machine
end

section
/-! ## The available modules

The zigzag lists every module outside column 6 once. The function modules among them are those of the rectangles of
`Laws.functionRects`, which share no module, so that the areas give the number of available modules. -/

namespace Sys2Proof.Laws

/-! ### The modules of a rectangle -/

/-- The modules of a rectangle, row by row. -/
def Rect.modules (t : Rect) : List (Nat × Nat) := List.range' t.r0 (t.r1 - t.r0) ×ˢ List.range' t.c0 (t.c1 - t.c0)

/-- One rectangle lies above or beside the other. -/
def Rect.apart (t u : Rect) : Bool := Nat.ble t.r1 u.r0 || Nat.ble u.r1 t.r0 || Nat.ble t.c1 u.c0 || Nat.ble u.c1 t.c0

theorem Rect.mem_modules {t : Rect} {x : Nat × Nat} : x ∈ t.modules ↔ t.has x = true := by
  rw [Rect.has_iff, modules, List.mem_product, List.mem_range'_1, List.mem_range'_1]
  omega

theorem Rect.modules_length (t : Rect) : t.modules.length = t.area := by
  simp [modules, area, List.length_product]

theorem Rect.modules_nodup (t : Rect) : t.modules.Nodup :=
  List.Nodup.product List.nodup_range' List.nodup_range'

theorem Rect.modules_disjoint {t u : Rect} (h : t.apart u = true) : t.modules.Disjoint u.modules := by
  intro x ht hu
  rw [mem_modules, has_iff] at ht hu
  simp only [apart, Bool.or_eq_true, Nat.ble_eq] at h
  omega

end Sys2Proof.Laws

namespace Sys2Proof.Machine

open Laws

/-! ### The zigzag -/

/-- The modules in zigzag order, the function modules included (43_matrix_layout R224). -/
def zigzag (v : Nat) : List (Nat × Nat) := (columnPairs (sideOf v)).flatMap (pairModules (sideOf v))

theorem placementOrder_eq (v : Nat) : placementOrder v = (zigzag v).filter fun x => !isFunction v x.1 x.2 := rfl

/-- A module is a rectangle of area 1, so the zigzag visits it at most once. -/
theorem zigzag_nodup (v : Nat) : (zigzag v).Nodup := by
  refine List.nodup_iff_count_le_one.mpr fun ⟨r, c⟩ => ?_
  have hvisits := zigzag_countP_le_area v ⟨r, r + 1, c, c + 1⟩
  have harea : Rect.area ⟨r, r + 1, c, c + 1⟩ = 1 := by simp [Rect.area]
  rw [harea] at hvisits
  refine (List.countP_mono_left fun x _ hx => ?_).trans hvisits
  obtain rfl := beq_iff_eq.mp hx
  simp [Rect.has_iff]

/-- The modules of a matrix of side n outside column 6. -/
def outsideColumnSix (n : Nat) : Finset (Nat × Nat) := Finset.range n ×ˢ (Finset.range n).erase 6

theorem mem_outsideColumnSix {n : Nat} {x : Nat × Nat} : x ∈ outsideColumnSix n ↔ x.1 < n ∧ x.2 < n ∧ x.2 ≠ 6 := by
  simp [outsideColumnSix, and_comm]

theorem outsideColumnSix_card {n : Nat} (h : 6 < n) : (outsideColumnSix n).card = n * (n - 1) := by
  simp [outsideColumnSix, h]

/-- The zigzag visits N(N-1) different modules of the matrix outside column 6, hence all of them. -/
theorem mem_zigzag_iff {v r c : Nat} : (r, c) ∈ zigzag v ↔ r < sideOf v ∧ c < sideOf v ∧ c ≠ 6 := by
  have hsub : (zigzag v).toFinset ⊆ outsideColumnSix (sideOf v) := fun x hx =>
    mem_outsideColumnSix.mpr (zigzag_bounds v x (List.mem_toFinset.mp hx))
  have hcard : (outsideColumnSix (sideOf v)).card ≤ (zigzag v).toFinset.card := by
    rw [List.toFinset_card_of_nodup (zigzag_nodup v), zigzag, zigzag_length,
      outsideColumnSix_card (by rw [sideOf]; omega)]
  rw [← List.mem_toFinset, Finset.eq_of_subset_of_card_le hsub hcard, mem_outsideColumnSix]

/-! ### The modules each pattern draws -/

theorem ringOf_le_iff {r0 c0 r c k : Nat} :
    ringOf r0 c0 r c ≤ k ↔ (r0 ≤ r + k ∧ r ≤ r0 + k) ∧ (c0 ≤ c + k ∧ c ≤ c0 + k) := by
  simp only [ringOf, absDiff, max_le_iff]
  omega

theorem timingAt_isSome {r c : Nat} : (timingAt r c).isSome = true ↔ r = 6 ∨ c = 6 := by
  by_cases hr : r = 6 <;> by_cases hc : c = 6 <;> simp [timingAt, hr, hc]

theorem finderAt_isSome {r0 c0 r c : Nat} : (finderAt r0 c0 r c).isSome = true ↔ ringOf r0 c0 r c ≤ 4 := by
  by_cases h : ringOf r0 c0 r c ≤ 4 <;> simp [finderAt, h]

theorem alignmentAt_isSome {x : Nat × Nat} {r c : Nat} :
    (alignmentAt x r c).isSome = true ↔ ringOf x.1 x.2 r c ≤ 2 := by
  by_cases h : ringOf x.1 x.2 r c ≤ 2 <;> simp [alignmentAt, h]

theorem alignmentsAt_isSome {v r c : Nat} :
    (alignmentsAt v r c).isSome = true ↔ ∃ x ∈ alignmentCentres (alignmentCoords v), ringOf x.1 x.2 r c ≤ 2 := by
  simp only [alignmentsAt, List.findSome?_isSome_iff, alignmentAt_isSome]

theorem formatAt_isSome {n r c : Nat} : (formatAt n r c).isSome = true ↔ isFormatPos n r c = true := by
  by_cases h : isFormatPos n r c <;> simp [formatAt, h]

theorem isFormatPos_iff {n r c : Nat} :
    isFormatPos n r c = true ↔ (r = 8 ∨ c = 8) ∧ ∃ i < 15, formatPos1 i = (r, c) ∨ formatPos2 n i = (r, c) := by
  simp [isFormatPos]

theorem darkModuleAt_isSome {n r c : Nat} : (darkModuleAt n r c).isSome = true ↔ r = n - 8 ∧ c = 8 := by
  by_cases h : r = n - 8 ∧ c = 8 <;> simp [darkModuleAt, h]

theorem versionAt_isSome {v r c : Nat} :
    (versionAt v r c).isSome = true ↔ 7 ≤ v ∧
      ((sideOf v - 11 ≤ c ∧ c ≤ sideOf v - 9 ∧ r ≤ 5) ∨ (sideOf v - 11 ≤ r ∧ r ≤ sideOf v - 9 ∧ c ≤ 5)) := by
  simp only [versionAt, Nat.ble_eq, Bool.and_eq_true]
  split_ifs <;> simp only [Option.isSome_some, Option.isSome_none] <;> grind

/-- The function modules are those of the six patterns (43_matrix_layout R211, R212). -/
theorem isFunction_iff {v r c : Nat} :
    isFunction v r c = true ↔ (versionAt v r c).isSome = true ∨ (darkModuleAt (sideOf v) r c).isSome = true
      ∨ (formatAt (sideOf v) r c).isSome = true ∨ (alignmentsAt v r c).isSome = true
      ∨ (findersAt (sideOf v) r c).isSome = true ∨ (timingAt r c).isSome = true := by
  simp only [isFunction, patternAt, Option.isSome_or, Bool.or_eq_true]

/-- Column 6 is a timing pattern (43_matrix_layout R213). -/
theorem isFunction_column_six (v r : Nat) : isFunction v r 6 = true :=
  isFunction_iff.mpr (by simp only [timingAt_isSome, or_true])

/-- Settles O46: the zigzag visits every module outside column 6 once, and column 6 has function modules alone. -/
theorem placementVisitsOnce : Obligations.PlacementVisitsOnce := by
  intro v _ _
  refine ⟨(zigzag_nodup v).filter _, fun r c => ?_⟩
  have h6 : isFunction v r c = false → c ≠ 6 := by
    rintro h rfl
    simp [isFunction_column_six] at h
  rw [placementOrder_eq, List.mem_filter, mem_zigzag_iff, Bool.not_eq_true']
  tauto

/-! ### The rectangles of function modules -/

theorem isFunction_of_finder {v r c : Nat} (r0 c0 : Nat)
    (h0 : (r0, c0) ∈ [(3, 3), (3, sideOf v - 4), (sideOf v - 4, 3)])
    (hr : r0 ≤ r + 4 ∧ r ≤ r0 + 4) (hc : c0 ≤ c + 4 ∧ c ≤ c0 + 4) : isFunction v r c = true := by
  have hring : (finderAt r0 c0 r c).isSome = true := finderAt_isSome.mpr (ringOf_le_iff.mpr ⟨hr, hc⟩)
  have hfinder : (findersAt (sideOf v) r c).isSome = true := by
    simp only [List.mem_cons, Prod.mk.injEq, List.not_mem_nil, or_false] at h0
    obtain ⟨rfl, rfl⟩ | ⟨rfl, rfl⟩ | ⟨rfl, rfl⟩ := h0 <;>
      simp only [findersAt, Option.isSome_or, hring, Bool.true_or, Bool.or_true]
  exact isFunction_iff.mpr (.inr (.inr (.inr (.inr (.inl hfinder)))))

theorem isFunction_of_format {v r c : Nat} (i : Nat) (h8 : r = 8 ∨ c = 8) (hi : i < 15)
    (h : formatPos1 i = (r, c) ∨ formatPos2 (sideOf v) i = (r, c)) : isFunction v r c = true :=
  isFunction_iff.mpr (.inr (.inr (.inl (formatAt_isSome.mpr (isFormatPos_iff.mpr ⟨h8, i, hi, h⟩)))))

/-- The corners are finders with their separators, format positions and the dark module. -/
theorem isFunction_of_corner {v r c : Nat} {t : Rect} (ht : t ∈ cornerRects (sideOf v)) (h : t.has (r, c) = true) :
    isFunction v r c = true := by
  have hn : 17 ≤ sideOf v := Nat.le_add_left ..
  simp only [cornerRects, List.mem_cons, List.not_mem_nil, or_false] at ht
  obtain rfl | rfl | rfl | rfl | rfl | rfl | rfl | rfl | rfl | rfl | rfl | rfl := ht <;>
    simp only [Rect.has_iff] at h
  · exact isFunction_of_finder 3 3 (by simp) (by omega) (by omega)
  · exact isFunction_of_finder 3 3 (by simp) (by omega) (by omega)
  · exact isFunction_of_finder 3 (sideOf v - 4) (by simp) (by omega) (by omega)
  · exact isFunction_of_finder (sideOf v - 4) 3 (by simp) (by omega) (by omega)
  · exact isFunction_of_finder (sideOf v - 4) 3 (by simp) (by omega) (by omega)
  · exact isFunction_of_format (14 - c) (by omega) (by omega) (.inl (by grind [formatPos1]))
  · exact isFunction_of_format (15 - c) (by omega) (by omega) (.inl (by grind [formatPos1]))
  · exact isFunction_of_format r (by omega) (by omega) (.inl (by grind [formatPos1]))
  · exact isFunction_of_format 6 (by omega) (by omega) (.inl (by grind [formatPos1]))
  · exact isFunction_of_format (sideOf v - 1 - c) (by omega) (by omega) (.inr (by grind [formatPos2]))
  · exact isFunction_of_format (r + 15 - sideOf v) (by omega) (by omega) (.inr (by grind [formatPos2]))
  · exact isFunction_iff.mpr (.inr (.inl (darkModuleAt_isSome.mpr (by omega))))

theorem isFunction_of_version {v r c : Nat} {t : Rect} (ht : t ∈ versionRects v) (h : t.has (r, c) = true) :
    isFunction v r c = true := by
  refine isFunction_iff.mpr (.inl (versionAt_isSome.mpr ?_))
  rw [versionRects] at ht
  split at ht
  · obtain rfl | rfl : t = _ ∨ t = _ := by simpa using ht
    all_goals
      simp only [Rect.has_iff] at h
      omega
  · cases ht

theorem isFunction_of_alignment {v r c : Nat} {x : Nat × Nat} {t : Rect}
    (hx : x ∈ alignmentCentres (alignmentCoords v)) (ht : t ∈ alignmentRects x) (h : t.has (r, c) = true) :
    isFunction v r c = true := by
  refine isFunction_iff.mpr (.inr (.inr (.inr (.inl (alignmentsAt_isSome.mpr ⟨x, hx, ringOf_le_iff.mpr ?_⟩)))))
  rw [alignmentRects] at ht
  split at ht
  · obtain rfl | rfl : t = _ ∨ t = _ := by simpa using ht
    all_goals
      simp only [Rect.has_iff] at h
      omega
  · obtain rfl := List.mem_singleton.mp ht
    simp only [Rect.has_iff] at h
    omega

/-- The rectangles between the alignment patterns lie on row 6. -/
theorem gapRects_row {t : Rect} {ps : List Nat} {lo hi : Nat} (ht : t ∈ gapRects lo ps hi) : t.r0 = 6 ∧ t.r1 = 7 := by
  induction ps generalizing lo with
  | nil =>
    obtain rfl := List.mem_singleton.mp ht
    exact ⟨rfl, rfl⟩
  | cons p ps ih =>
    obtain rfl | ht := List.mem_cons.mp ht
    · exact ⟨rfl, rfl⟩
    · exact ih ht

theorem isFunction_of_gap {v r c lo hi : Nat} {ps : List Nat} {t : Rect} (ht : t ∈ gapRects lo ps hi)
    (h : t.has (r, c) = true) : isFunction v r c = true := by
  obtain ⟨h0, h1⟩ := gapRects_row ht
  rw [Rect.has_iff] at h
  simp only [isFunction_iff, timingAt_isSome, show r = 6 by omega, true_or, or_true]

/-- The rectangles hold function modules alone. -/
theorem isFunction_of_rect {v r c : Nat} {t : Rect} (ht : t ∈ functionRects v) (h : t.has (r, c) = true) :
    isFunction v r c = true := by
  simp only [functionRects, List.mem_append, List.mem_flatMap] at ht
  obtain ((ht | ht) | ⟨x, hx, ht⟩) | ht := ht
  · exact isFunction_of_corner ht h
  · exact isFunction_of_version ht h
  · exact isFunction_of_alignment hx ht h
  · exact isFunction_of_gap ht h


/-- The finite facts of the rectangles of every version: they share no module, they lie in the matrix outside column 6, and
their areas and RAW add up to the modules outside column 6 (43_matrix_layout R223). -/
theorem functionRects_arrangement {v : Nat} (h1 : 1 ≤ v) (h2 : v ≤ 40) :
    ((functionRects v).Pairwise fun t u => t.apart u = true)
      ∧ (∀ t ∈ functionRects v, t.r1 ≤ sideOf v ∧ t.c1 ≤ sideOf v ∧ (t.c1 ≤ 6 ∨ 7 ≤ t.c0))
      ∧ rawModules v + ((functionRects v).map Rect.area).sum = sideOf v * (sideOf v - 1) := by
  have h : ∀ u : Fin 41, 1 ≤ u.val → ((functionRects u).Pairwise fun t u => t.apart u = true)
      ∧ (∀ t ∈ functionRects u, t.r1 ≤ sideOf u ∧ t.c1 ≤ sideOf u ∧ (t.c1 ≤ 6 ∨ 7 ≤ t.c0))
      ∧ rawModules u + ((functionRects u).map Rect.area).sum = sideOf u * (sideOf u - 1) := by decide +kernel
  exact h ⟨v, by omega⟩ h1

/-- The rectangles list the function modules that the zigzag passes, each once. -/
theorem filter_zigzag_perm {v : Nat} (h1 : 1 ≤ v) (h2 : v ≤ 40) :
    ((zigzag v).filter fun x => isFunction v x.1 x.2).Perm ((functionRects v).flatMap Rect.modules) := by
  obtain ⟨hapart, hbounds, -⟩ := functionRects_arrangement h1 h2
  have hnodup : ((functionRects v).flatMap Rect.modules).Nodup :=
    List.nodup_flatMap.mpr ⟨fun t _ => t.modules_nodup, hapart.imp Rect.modules_disjoint⟩
  refine (List.perm_ext_iff_of_nodup ((zigzag_nodup v).filter _) hnodup).mpr fun ⟨r, c⟩ => ?_
  simp only [List.mem_filter, mem_zigzag_iff, List.mem_flatMap, Rect.mem_modules]
  constructor
  · rintro ⟨⟨hr, hc, h6⟩, hf⟩
    exact isFunction_in_rects v r c h1 h2 hr hc h6 hf
  · rintro ⟨t, ht, hx⟩
    obtain ⟨hr, hc, h6⟩ := hbounds t ht
    have hmem := (t.has_iff r c).mp hx
    exact ⟨by omega, isFunction_of_rect ht hx⟩

/-- The modules outside column 6 less the areas of the rectangles (43_matrix_layout R223). -/
theorem placementOrder_length {v : Nat} (h1 : 1 ≤ v) (h2 : v ≤ 40) : (placementOrder v).length = rawModules v := by
  obtain ⟨-, -, hraw⟩ := functionRects_arrangement h1 h2
  have hfunction : ((zigzag v).filter fun x => isFunction v x.1 x.2).length = ((functionRects v).map Rect.area).sum := by
    simp only [(filter_zigzag_perm h1 h2).length_eq, List.length_flatMap, Rect.modules_length]
  have hsplit := List.length_eq_length_filter_add (l := zigzag v) fun x => isFunction v x.1 x.2
  rw [hfunction, ← placementOrder_eq, zigzag, zigzag_length] at hsplit
  omega

/-- Settles O47: the available modules are RAW many, and TOTAL is a column of the capacity table. -/
theorem availableModules : Obligations.AvailableModules := by
  intro v h1 h2
  have hlen := placementOrder_length h1 h2
  exact ⟨hlen, hlen ▸ (capacityTable_rows h1 h2 .l).1⟩

end Sys2Proof.Machine
end

section
/-! ## Placement

A matrix as its fields, what setting the colours of a list of modules leaves of each, and the bits that placement sets. -/

namespace Sys2Proof.Machine

/-! ### The fields of a matrix -/

/-- In a concatenation of runs of length k, element k*i + j is element j of the i-th run. -/
theorem flatMap_getElem? {α β : Type} (f : α → List β) {k : Nat} (hk : ∀ x, (f x).length = k) (l : List α) {i j : Nat}
    (hi : i < l.length) (hj : j < k) : (l.flatMap f)[k * i + j]? = (f l[i])[j]? := by
  rw [← flatMap_part f k hk l i hi, List.getElem?_take_of_lt hj, List.getElem?_drop]

theorem gridOf_size (n : Nat) (f : Nat → Nat → Bool) : (gridOf n f).size = n * n := by
  rw [gridOf, List.size_toArray, length_flatMap_const _ n (fun r => by simp), List.length_range]

theorem gridOf_getD {n r c : Nat} (f : Nat → Nat → Bool) (hr : r < n) (hc : c < n) :
    (gridOf n f).getD (r * n + c) false = f r c := by
  have hget := flatMap_getElem? (fun r => (List.range n).map fun c => f r c) (k := n) (fun r => by simp) (List.range n)
    (i := r) (by simpa using hr) hc
  simp only [List.getElem_range, List.getElem?_map, List.getElem?_range hc, Option.map_some] at hget
  rw [gridOf, Array.getD_eq_getD_getElem?, List.getElem?_toArray, Nat.mul_comm, hget, Option.getD_some]

theorem layout_dark_size (v : Nat) : (layout v).dark.size = (layout v).side * (layout v).side := gridOf_size _ _

theorem layout_funcAt {v r c : Nat} (hr : r < sideOf v) (hc : c < sideOf v) : (layout v).funcAt r c = isFunction v r c :=
  gridOf_getD _ hr hc

/-- Two modules of a matrix of side n are different elements of its flat grid (43_matrix_layout R210). -/
theorem gridIndex_inj {n r c r' c' : Nat} (hc : c < n) (hc' : c' < n) (h : r * n + c = r' * n + c') : r = r' ∧ c = c' := by
  have hmod := congrArg (· % n) h
  simp only [Nat.mul_add_mod', Nat.mod_eq_of_lt hc, Nat.mod_eq_of_lt hc'] at hmod
  subst hmod
  exact ⟨Nat.eq_of_mul_eq_mul_right (Nat.zero_lt_of_lt hc) (Nat.add_right_cancel h), rfl⟩

namespace Grid

variable {g : Grid} {r c r' c' : Nat}

@[simp] theorem setDark_func (g : Grid) (r c : Nat) (b : Bool) : (g.setDark r c b).func = g.func := rfl

@[simp] theorem setDark_dark_size (g : Grid) (r c : Nat) (b : Bool) : (g.setDark r c b).dark.size = g.dark.size :=
  Array.size_setIfInBounds

theorem darkAt_setDark_same (hsize : g.dark.size = g.side * g.side) (hr : r < g.side) (hc : c < g.side) (b : Bool) :
    (g.setDark r c b).darkAt r c = b := by
  have hlt : r * g.side + c < g.dark.size := by
    rw [hsize]
    nlinarith
  simp [darkAt, setDark, hlt]

theorem darkAt_setDark_of_ne (hc : c < g.side) (hc' : c' < g.side) (hne : (r', c') ≠ (r, c)) (b : Bool) :
    (g.setDark r c b).darkAt r' c' = g.darkAt r' c' := by
  have hindex : r * g.side + c ≠ r' * g.side + c' := fun h => by
    obtain ⟨rfl, rfl⟩ := gridIndex_inj hc hc' h
    exact hne rfl
  simp [darkAt, setDark, Array.getElem?_setIfInBounds_ne hindex]

/-! ### Setting the colours of several modules -/

/-- Set the colour of each listed module (43_matrix_layout R225). -/
def paint (g : Grid) (l : List ((Nat × Nat) × Bool)) : Grid := l.foldl (fun g x => g.setDark x.1.1 x.1.2 x.2) g

@[simp] theorem paint_cons (g : Grid) (x : (Nat × Nat) × Bool) (l : List ((Nat × Nat) × Bool)) :
    g.paint (x :: l) = (g.setDark x.1.1 x.1.2 x.2).paint l := rfl

@[simp] theorem paint_func (g : Grid) (l : List ((Nat × Nat) × Bool)) : (g.paint l).func = g.func := by
  induction l generalizing g with
  | nil => rfl
  | cons x l ih => rw [paint_cons, ih, setDark_func]

/-- A module that is not listed keeps its colour. -/
theorem darkAt_paint_of_notMem {l : List ((Nat × Nat) × Bool)} (hl : ∀ x ∈ l, x.1.2 < g.side) (hc : c < g.side)
    (h : (r, c) ∉ l.map Prod.fst) : (g.paint l).darkAt r c = g.darkAt r c := by
  induction l generalizing g with
  | nil => rfl
  | cons x l ih =>
    obtain ⟨hx, hl⟩ := List.forall_mem_cons.mp hl
    obtain ⟨hne, h⟩ := not_or.mp (fun e => h (List.mem_cons.mpr e))
    rw [paint_cons, ← darkAt_setDark_of_ne hx hc hne x.2]
    exact ih hl hc h

/-- A module that is listed once has the colour listed. -/
theorem darkAt_paint_of_mem {l : List ((Nat × Nat) × Bool)} {b : Bool} (hsize : g.dark.size = g.side * g.side)
    (hl : ∀ x ∈ l, x.1.1 < g.side ∧ x.1.2 < g.side) (hnodup : (l.map Prod.fst).Nodup) (h : ((r, c), b) ∈ l) :
    (g.paint l).darkAt r c = b := by
  induction l generalizing g with
  | nil => cases h
  | cons x l ih =>
    obtain ⟨⟨hr, hc⟩, hrest⟩ := List.forall_mem_cons.mp hl
    obtain ⟨hx, hnodup⟩ := List.nodup_cons.mp hnodup
    rw [paint_cons]
    obtain rfl | h := List.mem_cons.mp h
    · have hkept := darkAt_paint_of_notMem (g := g.setDark r c b) (fun y hy => (hrest y hy).2) hc hx
      exact hkept.trans (darkAt_setDark_same hsize hr hc b)
    · exact ih ((setDark_dark_size ..).trans hsize) hrest hnodup h

end Grid

/-! ### Placement -/

theorem bitsOfByte_getElem? (b : Byte) {j : Nat} (h : j < 8) : (bitsOfByte b)[j]? = some (b.getLsbD (7 - j)) := by
  simp [bitsOfByte, bitsMsb, h, BitVec.getLsbD]

/-- The bits that placement puts on n modules: those of the codewords, then light (43_matrix_layout R225, R226). -/
def placementBits (cw : List Byte) (n : Nat) : List Bool :=
  cw.flatMap bitsOfByte ++ List.replicate (n - 8 * cw.length) false

theorem codewordBits_length (cw : List Byte) : (cw.flatMap bitsOfByte).length = 8 * cw.length :=
  length_flatMap_const bitsOfByte 8 (fun b => bitsMsb_length 8 b.toNat) cw

theorem placementBits_length {cw : List Byte} {n : Nat} (h : 8 * cw.length ≤ n) : (placementBits cw n).length = n := by
  rw [placementBits, List.length_append, codewordBits_length, List.length_replicate, Nat.add_sub_cancel' h]

theorem placementBits_getElem? (cw : List Byte) {n i : Nat} (hi : i < n) :
    (placementBits cw n)[i]? = some (if i < 8 * cw.length then (cw.getD (i / 8) 0).getLsbD (7 - i % 8) else false) := by
  by_cases hcw : i < 8 * cw.length
  · have hword : i / 8 < cw.length := Nat.div_lt_of_lt_mul hcw
    have hbit := flatMap_getElem? bitsOfByte (fun b => bitsMsb_length 8 b.toNat) cw hword (Nat.mod_lt i (by decide))
    rw [Nat.div_add_mod, bitsOfByte_getElem? _ (Nat.mod_lt i (by decide))] at hbit
    rw [placementBits, List.getElem?_append_left (by rwa [codewordBits_length]), hbit, if_pos hcw,
      List.getD_eq_getElem _ _ hword]
  · rw [placementBits, List.getElem?_append_right (by rw [codewordBits_length]; omega), codewordBits_length, if_neg hcw,
      List.getElem?_replicate_of_lt (by omega)]

/-- The available modules in zigzag order, each with its bit. -/
def placementColours (cw : List Byte) (v : Nat) : List ((Nat × Nat) × Bool) :=
  (placementOrder v).zip (placementBits cw (placementOrder v).length)

/-- Placement sets each module of the order to its bit (43_matrix_layout R225 to R227). -/
theorem place_eq_paint {cw : List Byte} {v : Nat} {g m : Grid} (h : place cw v g = some m) :
    8 * cw.length ≤ (placementOrder v).length ∧ m = g.paint (placementColours cw v) := by
  simp only [place] at h
  split at h
  · cases h
  · exact ⟨by omega, (Option.some.inj h).symm⟩

theorem placementColours_modules {cw : List Byte} {v : Nat} (h : 8 * cw.length ≤ (placementOrder v).length) :
    (placementColours cw v).map Prod.fst = placementOrder v :=
  List.map_fst_zip (placementBits_length h).ge

theorem placementColours_getElem? (cw : List Byte) {v i : Nat} {x : Nat × Nat} (hi : (placementOrder v)[i]? = some x) :
    (placementColours cw v)[i]?
      = some (x, if i < 8 * cw.length then (cw.getD (i / 8) 0).getLsbD (7 - i % 8) else false) := by
  obtain ⟨hlt, -⟩ := List.getElem?_eq_some_iff.mp hi
  exact List.getElem?_zip_eq_some.mpr ⟨hi, placementBits_getElem? cw hlt⟩

/-- Settles O48: placement sets the modules of the order alone, each once, and no function module is among them. -/
theorem placedBits : Obligations.PlacedBits := by
  intro cw v m h1 h2 hplace
  obtain ⟨hlen, hside⟩ := place_some hplace
  obtain ⟨hroom, rfl⟩ := place_eq_paint hplace
  obtain ⟨hnodup, hmem⟩ := placementVisitsOnce v h1 h2
  have hmodules := placementColours_modules hroom
  have hbounds : ∀ x ∈ placementColours cw v, x.1.1 < sideOf v ∧ x.1.2 < sideOf v := fun x hx => by
    obtain ⟨hr, hc, -⟩ := (hmem x.1.1 x.1.2).mp (hmodules ▸ List.mem_map_of_mem hx)
    exact ⟨hr, hc⟩
  refine ⟨hlen, hside, fun i r c hi => ?_, fun r c hr hc => ⟨?_, fun hf => ?_⟩⟩
  · exact Grid.darkAt_paint_of_mem (layout_dark_size v) hbounds (hmodules.symm ▸ hnodup)
      (List.mem_of_getElem? (placementColours_getElem? cw hi))
  · rw [Grid.funcAt, Grid.paint_func, hside]
    exact layout_funcAt hr hc
  · have hunlisted : (r, c) ∉ (placementColours cw v).map Prod.fst := by
      rw [hmodules, hmem]
      simp [hf]
    exact Grid.darkAt_paint_of_notMem (fun x hx => (hbounds x hx).2) hc hunlisted

end Sys2Proof.Machine
end

section
/-! ## Masks and candidates

What a mask and the format word leave of each module, and the mask committed. -/

namespace Sys2Proof.Machine

/-! ### The mask -/

theorem gridIndex_lt {n r c : Nat} (hr : r < n) (hc : c < n) : r * n + c < n * n := by
  have h : (r + 1) * n ≤ n * n := Nat.mul_le_mul_right n hr
  rw [Nat.succ_mul] at h
  omega

namespace Grid

variable {g : Grid} {r c : Nat}

@[simp] theorem applyMask_side (g : Grid) (k : Nat) : (g.applyMask k).side = g.side := rfl

@[simp] theorem applyMask_func (g : Grid) (k : Nat) : (g.applyMask k).func = g.func := rfl

theorem applyMask_dark_size (hfunc : g.func.size = g.dark.size) (k : Nat) : (g.applyMask k).dark.size = g.dark.size := by
  simp [applyMask, hfunc]

/-- Element i of the flat grid is module (i / N, i mod N) (43_matrix_layout R210). -/
theorem darkAt_applyMask (hdark : g.dark.size = g.side * g.side) (hfunc : g.func.size = g.side * g.side) (k : Nat)
    (hr : r < g.side) (hc : c < g.side) :
    (g.applyMask k).darkAt r c = if g.funcAt r c then g.darkAt r c else (g.darkAt r c ^^ maskBit k r c) := by
  have hlt := gridIndex_lt hr hc
  have hdiv : (r * g.side + c) / g.side = r := by
    rw [Nat.mul_comm, Nat.mul_add_div (Nat.zero_lt_of_lt hc), Nat.div_eq_of_lt hc, Nat.add_zero]
  have hmod : (r * g.side + c) % g.side = c := by rw [Nat.mul_add_mod', Nat.mod_eq_of_lt hc]
  simp [darkAt, funcAt, applyMask, hdark, hfunc, hlt, hdiv, hmod]

end Grid

/-- Settles O49: a mask works module by module. -/
theorem maskFlipsDataModules : Obligations.MaskFlipsDataModules :=
  fun _ k _ _ hdark hfunc hr hc => ⟨Grid.darkAt_applyMask hdark hfunc k hr hc, rfl⟩

/-! ### The format word -/

/-- The 30 format positions, each with its bit of the word f (44_mask_penalty R243). -/
def formatColours (n f : Nat) : List ((Nat × Nat) × Bool) :=
  (List.range 15).flatMap fun i => [(formatPos1 i, f.testBit i), (formatPos2 n i, f.testBit i)]

/-- Writing the format word sets the colours of its positions; the side stays as it is throughout (44_mask_penalty R243). -/
theorem Grid.writeFormat_eq_paint (g : Grid) (f : Nat) : g.writeFormat f = g.paint (formatColours g.side f) := by
  unfold Grid.writeFormat formatColours
  induction List.range 15 generalizing g with
  | nil => rfl
  | cons i l ih => exact ih _

theorem mem_formatColours {n f : Nat} {x : (Nat × Nat) × Bool} :
    x ∈ formatColours n f ↔ ∃ i < 15, x = (formatPos1 i, f.testBit i) ∨ x = (formatPos2 n i, f.testBit i) := by
  simp [formatColours]

/-- Every format position lies in row 8 or column 8 of the matrix (43_matrix_layout R217). -/
theorem formatPos_bounds {n i : Nat} (hn : 21 ≤ n) (hi : i < 15) {x : Nat × Nat}
    (hx : x = formatPos1 i ∨ x = formatPos2 n i) : (x.1 < n ∧ x.2 < n) ∧ (x.1 = 8 ∨ x.2 = 8) := by
  obtain rfl | rfl := hx
  · unfold formatPos1
    split_ifs <;> simp <;> omega
  · unfold formatPos2
    split_ifs <;> simp <;> omega

/-- No two of the 30 format positions are the same module (43_matrix_layout R217). -/
theorem formatPos_disjoint {n i j : Nat} (hn : 21 ≤ n) (hij : i < j) (hj : j < 15) :
    List.Disjoint [formatPos1 i, formatPos2 n i] [formatPos1 j, formatPos2 n j] := by
  simp only [List.disjoint_cons_left, List.mem_cons, List.not_mem_nil, or_false, not_or, List.disjoint_nil_left, and_true]
  refine ⟨⟨?_, ?_⟩, ?_, ?_⟩ <;> grind [formatPos1, formatPos2]

theorem formatPos1_ne_formatPos2 {n i : Nat} (hn : 21 ≤ n) (hi : i < 15) : formatPos1 i ≠ formatPos2 n i := by
  grind [formatPos1, formatPos2]

theorem formatColours_bounds {n f : Nat} (hn : 21 ≤ n) {x : (Nat × Nat) × Bool} (hx : x ∈ formatColours n f) :
    x.1.1 < n ∧ x.1.2 < n := by
  obtain ⟨i, hi, rfl | rfl⟩ := mem_formatColours.mp hx
  · exact (formatPos_bounds hn hi (.inl rfl)).1
  · exact (formatPos_bounds hn hi (.inr rfl)).1

theorem formatColours_nodup {n : Nat} (hn : 21 ≤ n) (f : Nat) : ((formatColours n f).map Prod.fst).Nodup := by
  rw [formatColours, List.map_flatMap, List.nodup_flatMap]
  refine ⟨fun i hi => ?_, List.pairwise_lt_range.imp_of_mem fun _ hj hij => ?_⟩
  · simpa using formatPos1_ne_formatPos2 hn (List.mem_range.mp hi)
  · exact formatPos_disjoint hn hij (List.mem_range.mp hj)

namespace Grid

@[simp] theorem paint_dark_size (g : Grid) (l : List ((Nat × Nat) × Bool)) : (g.paint l).dark.size = g.dark.size := by
  induction l generalizing g with
  | nil => rfl
  | cons x l ih => rw [paint_cons, ih, setDark_dark_size]

section
variable {g : Grid} {f : Nat} (hside : 21 ≤ g.side)
include hside

/-- Both positions of F[i] hold bit i of the word (44_mask_penalty R243). -/
theorem darkAt_writeFormat_formatPos (hdark : g.dark.size = g.side * g.side) {i : Nat} (hi : i < 15) {x : Nat × Nat}
    (hx : x = formatPos1 i ∨ x = formatPos2 g.side i) : (g.writeFormat f).darkAt x.1 x.2 = f.testBit i := by
  have hmem : (x, f.testBit i) ∈ formatColours g.side f :=
    mem_formatColours.mpr ⟨i, hi, hx.imp (congrArg (·, f.testBit i)) (congrArg (·, f.testBit i))⟩
  rw [writeFormat_eq_paint]
  exact darkAt_paint_of_mem hdark (fun y hy => formatColours_bounds hside hy) (formatColours_nodup hside f) hmem

/-- Every other module keeps its colour. -/
theorem darkAt_writeFormat_other {r c : Nat} (hc : c < g.side) (h : isFormatPos g.side r c = false) :
    (g.writeFormat f).darkAt r c = g.darkAt r c := by
  rw [writeFormat_eq_paint]
  refine darkAt_paint_of_notMem (fun y hy => (formatColours_bounds hside hy).2) hc fun hmem => ?_
  obtain ⟨y, hy, hyrc⟩ := List.mem_map.mp hmem
  obtain ⟨i, hi, hpos⟩ := mem_formatColours.mp hy
  have hpos' : (r, c) = formatPos1 i ∨ (r, c) = formatPos2 g.side i := by
    rw [← hyrc]
    exact hpos.imp (congrArg Prod.fst) (congrArg Prod.fst)
  have hformat : isFormatPos g.side r c = true :=
    isFormatPos_iff.mpr ⟨(formatPos_bounds hside hi hpos').2, i, hi, hpos'.imp Eq.symm Eq.symm⟩
  exact Bool.false_ne_true (h.symm.trans hformat)

end
end Grid

/-! ### The candidates -/

theorem candidate_func (m : Grid) (lv : Level) (k : Nat) : (candidate m lv k).func = m.func := by
  rw [candidate, Grid.writeFormat_eq_paint, Grid.paint_func, Grid.applyMask_func]

/-- The fields of a placed matrix are full grids of its side (43_matrix_layout R210). -/
theorem place_sizes {cw : List Byte} {v : Nat} {m : Grid} (h : place cw v (layout v) = some m) :
    m.side = sideOf v ∧ m.dark.size = m.side * m.side ∧ m.func.size = m.side * m.side := by
  have hside : m.side = sideOf v := (place_some h).2
  obtain ⟨-, hm⟩ := place_eq_paint h
  refine ⟨hside, ?_, ?_⟩
  · rw [hside, hm, Grid.paint_dark_size]
    exact layout_dark_size v
  · rw [hside, hm, Grid.paint_func]
    exact gridOf_size _ _

section
variable {cw : List Byte} {v : Nat} {m : Grid} (h1 : 1 ≤ v) (h2 : v ≤ 40) (hplace : place cw v (layout v) = some m)
  (lv : Level) (k : Nat) {r c : Nat} (hr : r < sideOf v) (hc : c < sideOf v)
include h1 h2 hplace hr hc

/-- The func fields of a candidate are those of the layout (44_mask_penalty R242). -/
theorem candidate_funcAt : (candidate m lv k).funcAt r c = isFunction v r c := by
  obtain ⟨-, -, -, hplaced⟩ := placedBits cw v m h1 h2 hplace
  have hfunc : (candidate m lv k).funcAt r c = m.funcAt r c := by
    rw [Grid.funcAt, candidate_func, candidate_side, Grid.funcAt]
  exact hfunc.trans (hplaced r c hr hc).1

/-- Outside the format positions a candidate is the masked matrix (44_mask_penalty R241 to R243). -/
theorem candidate_darkAt_other (hother : isFormatPos (sideOf v) r c = false) :
    (candidate m lv k).darkAt r c = (m.darkAt r c ^^ (!isFunction v r c && maskBit k r c)) := by
  obtain ⟨hside, hdark, hfunc⟩ := place_sizes hplace
  obtain ⟨-, -, -, hplaced⟩ := placedBits cw v m h1 h2 hplace
  have hfuncAt := (hplaced r c hr hc).1
  have h21 : 21 ≤ m.side := by rw [hside, sideOf]; omega
  rw [← hside] at hr hc hother
  rw [candidate, Grid.darkAt_writeFormat_other (g := m.applyMask k) h21 hc hother, Grid.darkAt_applyMask hdark hfunc k hr hc,
    hfuncAt]
  cases isFunction v r c <;> simp

end

/-- At both positions of F[i] a candidate has bit i of its format word, and is a function module (44_mask_penalty R243). -/
theorem candidate_formatPos {cw : List Byte} {v : Nat} {m : Grid} (h1 : 1 ≤ v) (h2 : v ≤ 40)
    (hplace : place cw v (layout v) = some m) (lv : Level) (k : Nat) {i : Nat} (hi : i < 15) {x : Nat × Nat}
    (hx : x = formatPos1 i ∨ x = formatPos2 (sideOf v) i) :
    (candidate m lv k).darkAt x.1 x.2 = (formatWord lv k).testBit i ∧ (candidate m lv k).funcAt x.1 x.2 = true := by
  obtain ⟨hside, hdark, hfunc⟩ := place_sizes hplace
  have h21 : 21 ≤ sideOf v := by rw [sideOf]; omega
  have hmasked : (m.applyMask k).dark.size = m.side * m.side :=
    (Grid.applyMask_dark_size (hfunc.trans hdark.symm) k).trans hdark
  obtain ⟨⟨hr, hc⟩, h8⟩ := formatPos_bounds h21 hi hx
  constructor
  · rw [← hside] at h21 hx
    exact Grid.darkAt_writeFormat_formatPos (g := m.applyMask k) h21 hmasked hi hx
  · rw [candidate_funcAt h1 h2 hplace lv k hr hc]
    exact isFunction_of_format i h8 hi (hx.imp Eq.symm Eq.symm)

/-- Settles O50: the 30 format positions are different function modules, each set once, after the mask. -/
theorem candidateFormatBits : Obligations.CandidateFormatBits := by
  intro cw v m lv k h1 h2 _ hplace
  refine ⟨fun i hi => ?_, fun r c hr hc =>
    ⟨candidate_funcAt h1 h2 hplace lv k hr hc, candidate_darkAt_other h1 h2 hplace lv k hr hc⟩⟩
  obtain ⟨hdark1, hfunc1⟩ := candidate_formatPos h1 h2 hplace lv k hi (.inl rfl)
  obtain ⟨hdark2, hfunc2⟩ := candidate_formatPos h1 h2 hplace lv k hi (.inr rfl)
  exact ⟨hdark1, hdark2, hfunc1, hfunc2⟩

/-! ### The committed mask -/

/-- A fold by min takes a list's minimum (44_mask_penalty R249). -/
theorem foldl_min_spec {ps : List Nat} (h : ps ≠ []) :
    ps.foldl min (ps.headD 0) ∈ ps ∧ ∀ x ∈ ps, ps.foldl min (ps.headD 0) ≤ x := by
  have hmin : ps.min? = some (ps.foldl min (ps.headD 0)) := by
    cases ps with
    | nil => exact absurd rfl h
    | cons p ps => rw [List.min?_cons', List.headD_cons, List.foldl_cons, min_self]
  exact List.min?_eq_some_iff.mp hmin

/-- Settles O53: the mask committed is the first index of the minimum. -/
theorem bestMaskMinimal : Obligations.BestMaskMinimal := by
  intro ps hlen
  obtain ⟨hmem, hle⟩ := foldl_min_spec (List.ne_nil_of_length_eq_add_one hlen)
  have hlt : bestMask ps < ps.length := List.idxOf_lt_length_of_mem hmem
  have hbest : ps.getD (bestMask ps) 0 = ps.foldl min (ps.headD 0) := by
    rw [List.getD_eq_getElem _ _ hlt]
    exact List.getElem_idxOf hlt
  have hmin : ∀ j, j < 8 → ps.getD (bestMask ps) 0 ≤ ps.getD j 0 := fun j hj => by
    rw [hbest, List.getD_eq_getElem _ _ (hlen ▸ hj)]
    exact hle _ (List.getElem_mem _)
  refine ⟨hlen ▸ hlt, hmin, fun j hj => lt_of_le_of_ne (hmin j (by omega)) fun heq => ?_⟩
  have hj8 : j < ps.length := hj.trans hlt
  rw [hbest, List.getD_eq_getElem _ _ hj8] at heq
  exact beq_eq_false_iff_ne.mp (List.not_of_lt_findIdx hj) heq.symm

end Sys2Proof.Machine
end

section
/-! ## The penalty score

The lines of a matrix by position, and the windows, runs and patterns the score counts in them. -/

namespace Sys2Proof.Machine

/-! ### The lines of a matrix -/

namespace Grid

variable {g : Grid}

/-- A full grid is its rows one after the other (43_matrix_layout R210). -/
theorem darkList_eq (h : g.dark.size = g.side * g.side) :
    g.dark.toList = (List.range g.side).flatMap fun r => (List.range g.side).map fun c => g.darkAt r c := by
  have hrow : ∀ r, ((List.range g.side).map fun c => g.darkAt r c).length = g.side := fun r => by simp
  have hlen := length_flatMap_const _ g.side hrow (List.range g.side)
  rw [List.length_range] at hlen
  refine List.ext_getElem (by rw [hlen, Array.length_toList, h]) fun i hi hi' => Option.some.inj ?_
  have hi2 : i < g.side * g.side := hlen ▸ hi'
  have hc : i % g.side < g.side := Nat.mod_lt i (Nat.pos_of_lt_mul_left hi2)
  have hget := flatMap_getElem? _ hrow (List.range g.side) (i := i / g.side)
    (by rw [List.length_range]; exact Nat.div_lt_of_lt_mul hi2) hc
  rw [Nat.div_add_mod, List.getElem?_eq_getElem hi'] at hget
  rw [hget]
  simp [hc, darkAt, Nat.div_add_mod', h, hi2]

theorem chunkRows_flatMap {f : Nat → List Bool} {n : Nat} (hf : ∀ x, (f x).length = n) (l : List Nat) :
    chunkRows n l.length (l.flatMap f) = l.map f := by
  induction l with
  | nil => rfl
  | cons x l ih =>
    rw [List.length_cons, List.flatMap_cons, chunkRows, List.take_left' (hf x), List.drop_left' (hf x), ih, List.map_cons]

theorem rows_eq (h : g.dark.size = g.side * g.side) :
    g.rows = (List.range g.side).map fun r => (List.range g.side).map fun c => g.darkAt r c := by
  have hchunk := chunkRows_flatMap (f := fun r => (List.range g.side).map fun c => g.darkAt r c) (n := g.side)
    (fun r => by simp) (List.range g.side)
  rw [List.length_range] at hchunk
  rw [rows, darkList_eq h, hchunk]

theorem cols_eq (h : g.dark.size = g.side * g.side) :
    g.cols = (List.range g.side).map fun c => (List.range g.side).map fun r => g.darkAt r c := by
  rw [cols, rows_eq h]
  refine List.map_congr_left fun c hc => ?_
  rw [List.map_map]
  refine List.map_congr_left fun r _ => ?_
  simp [List.mem_range.mp hc]

end Grid

/-! ### The 2 x 2 windows and the dark modules -/

/-- The pairs (i, j) with i, j < n, row by row. -/
def indexPairs (n : Nat) : List (Nat × Nat) := (List.range n).flatMap fun i => (List.range n).map fun j => (i, j)

theorem countP_indexPairs (n : Nat) (p : Nat × Nat → Bool) :
    (indexPairs n).countP p = ((List.range n).map fun i => (List.range n).countP fun j => p (i, j)).sum := by
  simp [indexPairs, List.countP_flatMap, List.countP_map, Function.comp_def]

/-- A function at 0 .. n is its value at 0, then the shifted function at 0 .. n-1. -/
theorem map_range_succ {α : Type} (n : Nat) (f : Nat → α) :
    (List.range (n + 1)).map f = f 0 :: (List.range n).map fun i => f (i + 1) := by
  rw [List.range_succ_eq_map, List.map_cons, List.map_map]
  rfl

theorem countP_range_succ (n : Nat) (p : Nat → Bool) :
    (List.range (n + 1)).countP p = (if p 0 then 1 else 0) + (List.range n).countP fun i => p (i + 1) := by
  rw [List.range_succ_eq_map, List.countP_cons, List.countP_map, Nat.add_comm]
  rfl

/-- The windows between two rows, at each column (44_mask_penalty R245). -/
theorem n2Rows_range (n : Nat) (f h : Nat → Bool) :
    n2Rows ((List.range (n + 1)).map f) ((List.range (n + 1)).map h)
      = (List.range n).countP fun j => f j == f (j + 1) && f j == h j && f j == h (j + 1) := by
  induction n generalizing f h with
  | zero => rfl
  | succ n ih =>
    have hrest := ih (fun j => f (j + 1)) (fun j => h (j + 1))
    simp only [map_range_succ] at hrest ⊢
    rw [n2Rows, hrest, countP_range_succ]
    simp [and_assoc]

/-- The windows of a matrix, row by row (44_mask_penalty R245). -/
theorem n2Blocks_range (n : Nat) (rows : Nat → List Bool) :
    n2Blocks ((List.range (n + 1)).map rows) = ((List.range n).map fun i => n2Rows (rows i) (rows (i + 1))).sum := by
  induction n generalizing rows with
  | zero => rfl
  | succ n ih =>
    have hrest := ih fun i => rows (i + 1)
    rw [map_range_succ] at hrest
    rw [map_range_succ, map_range_succ, n2Blocks, hrest, map_range_succ, List.sum_cons]

theorem Grid.n2_eq {g : Grid} (h : g.dark.size = g.side * g.side) :
    g.n2 = 3 * (indexPairs (g.side - 1)).countP fun x =>
        g.darkAt x.1 x.2 == g.darkAt x.1 (x.2 + 1) && g.darkAt x.1 x.2 == g.darkAt (x.1 + 1) x.2
          && g.darkAt x.1 x.2 == g.darkAt (x.1 + 1) (x.2 + 1) := by
  rw [Grid.n2, Grid.rows_eq h, countP_indexPairs]
  cases g.side with
  | zero => rfl
  | succ n =>
    rw [n2Blocks_range, Nat.add_sub_cancel]
    simp only [n2Rows_range]

/-- The dark modules counted in the flat grid are those at the positions (44_mask_penalty R247). -/
theorem Grid.count_dark {g : Grid} (h : g.dark.size = g.side * g.side) :
    g.dark.toList.count true = (indexPairs g.side).countP fun x => g.darkAt x.1 x.2 := by
  rw [Grid.darkList_eq h, countP_indexPairs, List.count_flatMap]
  simp [Function.comp_def, List.count, List.countP_map]

theorem absDiff_eq_natAbs (a b : Nat) : absDiff a b = ((a : Int) - b).natAbs := by
  rw [absDiff]
  omega

/-- Settles O51: the rows are the matrix read by position, so both counts run over the same positions. -/
theorem penaltyBlocksAndRatio : Obligations.PenaltyBlocksAndRatio := by
  intro g h
  refine ⟨Grid.n2_eq h, ?_, rfl⟩
  rw [Grid.n4, absDiff_eq_natAbs, Grid.count_dark h]
  push_cast
  rfl

/-! ### The runs of a line -/

/-- What a maximal run of len modules adds to N1 (44_mask_penalty R244). -/
def runScore (len : Nat) : Nat := if 5 ≤ len then 3 + (len - 5) else 0

/-- The length of the one-colour run of a line that begins at position x. -/
def runAt (ln : List Bool) (x : Nat) : Nat := ((ln.drop x).takeWhile (· == ln.getD x false)).length

/-- The scores of a line's maximal runs, each at the position where it begins; `prev` is the module before the line. -/
def startScores (prev : Option Bool) (ln : List Bool) : Nat :=
  ((List.range ln.length).map fun x =>
    if (if x = 0 then prev else ln[x - 1]?) ≠ ln[x]? then runScore (runAt ln x) else 0).sum

theorem startScores_cons (prev : Option Bool) (b : Bool) (rest : List Bool) :
    startScores prev (b :: rest)
      = (if prev = some b then 0 else runScore (1 + (rest.takeWhile (· == b)).length)) + startScores (some b) rest := by
  rw [startScores, List.length_cons, map_range_succ, List.sum_cons]
  congr 1
  · by_cases hp : prev = some b <;> simp [hp, runAt, Nat.add_comm]
  · refine congrArg List.sum (List.map_congr_left fun x _ => ?_)
    have hprev : (b :: rest)[x]? = if x = 0 then some b else rest[x - 1]? := by cases x <;> rfl
    simp [hprev, runAt]

/-- The runs found by the scan: the current one goes on while its colour does, and each later one begins where the colour
changes. -/
theorem sum_runScore_runsFrom (c : Bool) (len : Nat) (l : List Bool) :
    ((runsFrom c len l).map runScore).sum = runScore (len + (l.takeWhile (· == c)).length) + startScores (some c) l := by
  induction l generalizing c len with
  | nil => rfl
  | cons b rest ih =>
    rw [runsFrom, startScores_cons]
    by_cases hb : b = c
    · subst hb
      simp [ih, Nat.add_assoc, Nat.add_comm 1]
    · have hb' : some c ≠ some b := fun e => hb (Option.some.inj e).symm
      simp [hb, hb', ih]

/-- N1 of a line by position (44_mask_penalty R244). -/
theorem n1Line_eq_startScores (ln : List Bool) : n1Line ln = startScores none ln := by
  cases ln with
  | nil => rfl
  | cons b rest =>
    rw [startScores_cons, if_neg (by simp)]
    exact sum_runScore_runsFrom b 1 rest

/-! ### The finder-like patterns of a line -/

/-- Position x begins a finder-like occurrence of the line, `before` being what precedes the line, nearest first
(44_mask_penalty R246). -/
def finderAtPos (before ln : List Bool) (x : Nat) : Bool :=
  (ln.drop x).take 7 == finderLike
    && ((((ln.take x).reverse ++ before).take 4).all (· == false) || ((ln.drop (x + 7)).take 4).all (· == false))

theorem n3From_eq_countP (before ln : List Bool) :
    n3From before ln = (List.range ln.length).countP (finderAtPos before ln) := by
  induction ln generalizing before with
  | nil => rfl
  | cons b rest ih =>
    have hshift : (fun x => finderAtPos before (b :: rest) (x + 1)) = finderAtPos (b :: before) rest := funext fun x => by
      simp [finderAtPos]
    rw [n3From, ih, List.length_cons, countP_range_succ, hshift]
    simp [finderAtPos]

/-- The modules before position x, nearest first, end at the line's border. -/
theorem all_take_reverse_take {ln : List Bool} {x : Nat} (hx : x < ln.length) (p : Bool → Bool) :
    ((ln.take x).reverse.take 4).all p = ((ln.take x).drop (x - 4)).all p := by
  rw [List.take_reverse, List.all_reverse, List.length_take_of_le hx.le]

/-- Settles O52: the scans of a line count by position, and the rows and columns are the matrix read by position. -/
theorem penaltyOfLines : Obligations.PenaltyOfLines := by
  refine ⟨fun ln => ?_, fun ln => ?_, fun g h => ?_⟩
  · rw [n1Line_eq_startScores]
    refine congrArg List.sum (List.map_congr_left fun x hx => ?_)
    have hx := List.mem_range.mp hx
    have hstart : (if x = 0 then none else ln[x - 1]?) ≠ ln[x]? ↔ x = 0 ∨ ln[x - 1]? ≠ ln[x]? := by
      cases x with
      | zero => simp [List.getElem?_eq_getElem hx]
      | succ x => simp
    simp only [hstart, runScore, ite_and]
    rfl
  · rw [n3From_eq_countP]
    refine List.countP_congr fun x hx => ?_
    rw [finderAtPos, List.append_nil, all_take_reverse_take (List.mem_range.mp hx)]
    rfl
  · rw [Grid.n1, Grid.n3, Grid.lines, Grid.rows_eq h, Grid.cols_eq h]
    exact ⟨rfl, rfl⟩

end Sys2Proof.Machine
end

section
/-! ## The BUILD command

The registers and bytes of the symbol that BUILD writes, and the two endings of its SEGV check. -/

namespace Sys2Proof.Machine

/-! ### The symbol of the placed matrix -/

theorem committedMask_lt (m : Grid) (lv : Level) : committedMask m lv < 8 := (bestMaskMinimal _ (by simp)).1

theorem formatWord_lt (lv : Level) {k : Nat} (hk : k < 8) : formatWord lv k < 2 ^ 15 := by
  have h : ∀ j : Fin 8, ∀ lev ∈ [Level.l, .m, .q, .h], formatWord lev j < 2 ^ 15 := by decide
  exact h ⟨k, hk⟩ lv (by cases lv <;> simp)

theorem versionWord_lt {v : Nat} (hv : v ≤ 40) : versionWord v < 2 ^ 18 := by
  have h : ∀ u : Fin 41, versionWord u < 2 ^ 18 := by decide +kernel
  exact h ⟨v, by omega⟩

/-- The symbol of the segments at version v, m being the placed matrix (44_mask_penalty R251). -/
def placedSymbol (ss : List SegData) (lv : Level) (v : Nat) (m : Grid) : Symbol :=
  chooseMask ss lv v (dataCodewords ss v lv) (finalCodewords (dataCodewords ss v lv) v lv) m

/-- A selected version encodes to the symbol of its placed matrix (44_mask_penalty R250). -/
theorem encodeSymbol_eq_placedSymbol {ss : List SegData} {lv : Level} {v : Nat} (hv : selectVersion ss lv = some v) :
    ∃ m, place (finalCodewords (dataCodewords ss v lv) v lv) v (layout v) = some m
      ∧ encodeSymbol ss lv v = some (placedSymbol ss lv v m) := by
  obtain ⟨y, hy⟩ := encodeSymbol_isSome hv
  obtain ⟨m, hm, rfl⟩ := Option.map_eq_some_iff.mp hy
  exact ⟨m, hm, hy⟩

/-- A state that holds the symbol of a selected version holds the results of BUILD: every result fits its register. -/
theorem HoldsSymbol.buildResults {ss : List SegData} {lv : Level} {v : Nat} {m : Grid} {t : State}
    (hv : selectVersion ss lv = some v) (hm : place (finalCodewords (dataCodewords ss v lv) v lv) v (layout v) = some m)
    (hy : encodeSymbol ss lv v = some (placedSymbol ss lv v m)) (h : HoldsSymbol lv v (placedSymbol ss lv v m) t)
    (hsymv : t.status.symv = true) : BuildResults ss lv v m t := by
  obtain ⟨h1, h2, hfit⟩ := selectVersion_some hv
  obtain ⟨hdata, htotal, hside⟩ := (encodeSymbol_shape hv hy).regs_toNat
  have hversion : v < 2 ^ 6 := by omega
  have hmask := committedMask_lt m lv
  have hbytes : requiredBytes ss v ≤ 2956 := hfit.trans (codeword_bounds h2 lv).1
  have hbits : requiredBits ss v < 2 ^ 16 := by rw [requiredBytes] at hbytes; omega
  rw [← h.build] at hdata htotal hside
  constructor
  case symv => exact hsymv
  case version => rw [h.build]; exact Nat.mod_eq_of_lt hversion
  case side => exact hside
  case levelUsed => rw [h.build]; rfl
  case maskUsed => rw [h.build]; exact Nat.mod_eq_of_lt hmask
  case dataCw => exact hdata
  case totalCw => exact htotal
  case bitsUsed => rw [h.build]; exact Nat.mod_eq_of_lt hbits
  case reqBytes => rw [h.build]; exact Nat.mod_eq_of_lt (hbytes.trans_lt (by decide))
  case capBytes => rw [h.build] at hdata ⊢; exact hdata
  case formatInfo => rw [h.build]; exact Nat.mod_eq_of_lt (formatWord_lt lv hmask)
  case versionInfo =>
    rw [h.build]
    by_cases h7 : 7 ≤ v
    · simpa [Symbol.regs, placedSymbol, chooseMask, h7] using versionWord_lt h2
    · simp [Symbol.regs, placedSymbol, chooseMask, h7]
  case penalty =>
    intro k
    rw [h.build]
    simp [Symbol.regs, placedSymbol, chooseMask]
  case dcw => exact h.dcw
  case dcwListed => exact h.dcwListed
  case cw => exact h.cw
  case cwListed => exact h.cwListed
  case matrix =>
    intro r c hr hc
    rw [← candidate_funcAt h1 h2 hm lv (committedMask m lv) hr hc]
    exact h.matrix r c hr hc

/-! ### The bytes BUILD leaves as they are -/

/-- BUILD changes no byte but those it stores to (44_mask_penalty R251). -/
theorem State.writeSymbol_byteAt_other (s : State) {lv : Level} {v : Nat} {y : Symbol} (h : SymbolShape lv v y) {a : Nat}
    (ha : ¬StoredByBuild v lv a) : (s.writeSymbol y).byteAt a = s.byteAt a := by
  simp only [StoredByBuild, not_or] at ha
  obtain ⟨hdcw, hcw, hmatrix⟩ := ha
  rw [← h.dcw] at hdcw
  rw [← h.cw] at hcw
  let u1 := s.writeBytes (Window.base .dcwBuf) y.dcw
  let u2 := u1.writeBytes (Window.base .cwBuf) y.cw
  calc (s.writeSymbol y).byteAt a
      = (u2.writeMatrix y.matrix).byteAt a := State.byteAt_congr (s.writeSymbol_mem y) (by simp) a
    _ = u2.byteAt a := (u2.byteAt_writeMatrix y.matrix h.side_le a).2 fun r c hr hc hrc =>
        hmatrix ⟨r, c, h.side ▸ hr, h.side ▸ hc, hrc⟩
    _ = u1.byteAt a := (u1.writeBytes_writesOnly _ _).byteAt (by omega)
    _ = s.byteAt a := (s.writeBytes_writesOnly _ _).byteAt (by omega)

theorem State.writeSymbol_frame (s : State) (y : Symbol) : CommandFrame s (s.writeSymbol y) := by constructor <;> simp

/-- The completion keeps the symbol a state holds. -/
theorem HoldsSymbol.complete {lv : Level} {v : Nat} {y : Symbol} {t : State} (h : HoldsSymbol lv v y t) (e : ErrCode) :
    HoldsSymbol lv v y (t.complete e) :=
  ⟨h.build, h.dcw, h.dcwListed, h.cw, h.cwListed, h.matrix⟩

/-! ### The command -/

/-- BUILD of segments that a version holds writes their symbol (44_mask_penalty R250). -/
theorem exec_build_symbol {s : State} {segs : List Segment} {v : Nat} {y : Symbol} (hv : s.status.segv = true)
    (hs : s.segments = some segs) (hsel : selectVersion (segs.map s.segData) s.level = some v)
    (hy : encodeSymbol (segs.map s.segData) s.level v = some y) :
    exec .build s = .next ((s.buildStart.writeSymbol y).complete .none) := by
  rw [exec_eq, commandStage, buildStage_segments hv hs, buildSegments_symbol _ hsel hy]
  rfl

/-- BUILD without a valid segment table ends at its check (44_mask_penalty R252). -/
theorem exec_build_rejected {s : State} (hv : s.status.segv = false) :
    exec .build s = .next (s.buildStart.complete .invalidInput) := by
  rw [exec_eq, commandStage, buildStage, if_pos hv]
  rfl

/-- Settles O24: the body writes the symbol of the placed matrix, and the completion changes no result. -/
theorem buildCompletes : Obligations.BuildCompletes := by
  intro s segs v hv hs hsel
  obtain ⟨m, hm, hy⟩ := encodeSymbol_eq_placedSymbol hsel
  have hshape := encodeSymbol_shape hsel hy
  have hframe := s.buildStart_frame.trans (s.buildStart.writeSymbol_frame (placedSymbol (segs.map s.segData) s.level v m))
  have hholds := (s.buildStart.writeSymbol_holds hshape).complete .none
  have hresults := hholds.buildResults hsel hm hy (by simp)
  refine ⟨m, _, hm, exec_build_symbol hv hs hsel hy, hframe.completedWith _, hframe.engineFrame (by simp) (by simp) _,
    hresults, ?_, ?_, ?_, ?_, ?_, fun a ha => ?_⟩
  · rw [hresults.levelUsed, State.level, Level.toBits_ofBits]
  · simp [hv]
  · simp
  · simp
  · simp
  · exact s.buildStart.writeSymbol_byteAt_other hshape ha

/-- Settles O25: the body raises at its check, with SYMV, PIXV and the result registers cleared before. -/
theorem buildRejects : Obligations.BuildRejects :=
  fun s hv => ⟨_, exec_build_rejected hv, s.buildStart_frame.completedWith _, s.buildStart_frame.engineFrame rfl rfl _,
    hv, rfl, rfl, rfl, rfl, rfl, rfl⟩

end Sys2Proof.Machine
end

section
/-! ## The RASTER command

The sizes that RASTER computes, what its image holds at each pixel, and its endings. -/

namespace Sys2Proof.Machine

/-! ### The sizes -/

section
variable {w n m : Nat}

/-- Where the width holds the image side in modules, a module takes a whole part of it (45_rasterizer R271). -/
theorem modulePixels_of_le (hpos : 0 < imageModules n m) (h : imageModules n m ≤ w) :
    modulePixels w n m = w / imageModules n m :=
  Nat.max_eq_right (Nat.div_pos h hpos)

/-- Where the width is too small for the image side in modules, a module takes one pixel (45_rasterizer R271). -/
theorem modulePixels_of_lt (h : w < imageModules n m) : modulePixels w n m = 1 := by
  rw [modulePixels, Nat.div_eq_of_lt h, Nat.max_eq_left (Nat.zero_le 1)]

/-- What the image leaves of a width that holds it is the remainder of the division by T (45_rasterizer R272). -/
theorem outDim_add_mod (hpos : 0 < imageModules n m) (h : imageModules n m ≤ w) :
    outDim w n m + w % imageModules n m = w := by
  rw [outDim, modulePixels_of_le hpos h, Nat.div_add_mod']

/-- Where the width is too small, the image side is T (45_rasterizer R272). -/
theorem outDim_of_lt (h : w < imageModules n m) : outDim w n m = imageModules n m := by
  rw [outDim, modulePixels_of_lt h, Nat.one_mul]

theorem outDim_pos (hpos : 0 < imageModules n m) : 0 < outDim w n m :=
  Nat.mul_pos (Nat.le_max_left 1 _) hpos

end

/-! ### The pixels -/

/-- The DARK bits are a grid of side n (45_rasterizer R270). -/
theorem State.matrixDark_eq_gridOf (s : State) (n : Nat) :
    s.matrixDark n = gridOf n fun r c => (s.byteAt (0x50000 + 177 * r + c)).getLsbD 0 := by
  simp only [State.matrixDark, gridOf, State.readBytes, List.map_map]
  rfl

theorem State.matrixDark_getD (s : State) {n r c : Nat} (hr : r < n) (hc : c < n) :
    (s.matrixDark n).getD (r * n + c) false = (s.byteAt (0x50000 + 177 * r + c)).getLsbD 0 := by
  rw [State.matrixDark_eq_gridOf, gridOf_getD _ hr hc]

section
variable {n m mp dim x y : Nat} {grid : Array Bool} {dc lc : Word}

/-- A pixel is dark where its module lies inside the margin and is dark, the grid holding the colours `dark` of the matrix
(45_rasterizer R273). -/
theorem pixelWord_eq {dark : Nat → Nat → Bool} (h : ∀ r c, r < n → c < n → grid.getD (r * n + c) false = dark r c) :
    pixelWord n m mp grid dc lc x y
      = if m ≤ y / mp ∧ y / mp < m + n ∧ m ≤ x / mp ∧ x / mp < m + n ∧ dark (y / mp - m) (x / mp - m) = true then dc
        else lc := by
  refine if_congr ⟨?_, ?_⟩ rfl rfl
  · rintro ⟨hr, hrn, hc, hcn, hd⟩
    exact ⟨hr, by omega, hc, by omega, h _ _ hrn hcn ▸ hd⟩
  · rintro ⟨hr, hrn, hc, hcn, hd⟩
    have hrn' : y / mp - m < n := by omega
    have hcn' : x / mp - m < n := by omega
    exact ⟨hr, hrn', hc, hcn', (h _ _ hrn' hcn').trans hd⟩

/-- Word y*dim + x of the image is pixel (x, y) (45_rasterizer R274). -/
theorem pixelWords_getElem? (hx : x < dim) (hy : y < dim) :
    (pixelWords n m mp dim grid dc lc)[y * dim + x]? = some (pixelWord n m mp grid dc lc x y) := by
  have hget := flatMap_getElem? (fun y => (List.range dim).map fun x => pixelWord n m mp grid dc lc x y) (k := dim)
    (fun y => by simp) (List.range dim) (i := y) (by simpa using hy) hx
  rw [Nat.mul_comm, pixelWords, hget]
  simp [hx]

/-- Bytes that read as a list of words read, four at a time, as its words (10_state R52). -/
theorem State.readBytes_word {s : State} {off i : Nat} {ws : List Word} {word : Word}
    (h : s.readBytes off (4 * ws.length) = ws.flatMap fun x => bytesLE 4 x.toNat) (hi : ws[i]? = some word) :
    natOfBytesLE (s.readBytes (off + 4 * i) 4) = word.toNat := by
  obtain ⟨hlt, rfl⟩ := List.getElem?_eq_some_iff.mp hi
  rw [s.readBytes_part off (len := 4 * ws.length) (by omega), h,
    flatMap_part _ 4 (fun x => bytesLE_length 4 x.toNat) ws i hlt, natOfBytesLE_bytesLE ws[i].isLt]

end

/-- A state that holds the image for the width, margin and colours of s holds the results of RASTER, `dark` being the colours
of its n x n matrix. -/
theorem HoldsImage.rasterResults {n : Nat} {dark : Nat → Nat → Bool} {s t : State}
    (h : HoldsImage s.rasterW s.rasterM s.conf.darkColor s.conf.lightColor t) (hpixv : t.status.pixv = true)
    (hside : t.rasterN = n) (hdark : ∀ r c, r < n → c < n → (t.matrixDark n).getD (r * n + c) false = dark r c) :
    RasterResults n dark s t := by
  subst hside
  obtain ⟨hmp, hdim, hlisted, hpixels⟩ := h
  constructor
  case pixv => exact hpixv
  case modulePx => exact hmp
  case outDim => rw [hdim, hmp]; rfl
  case pixels =>
    intro x y hx hy
    rw [← pixelWord_eq (mp := t.raster.modulePx.toNat) hdark]
    rw [← hmp, ← hdim] at hpixels
    exact State.readBytes_word (by rw [pixelWords_length]; exact hpixels) (pixelWords_getElem? hx hy)
  case listed => rw [hdim]; exact hlisted

/-- The completion keeps the results of RASTER. -/
theorem RasterResults.complete {n : Nat} {dark : Nat → Nat → Bool} {s t : State} (h : RasterResults n dark s t)
    (e : ErrCode) : RasterResults n dark s (t.complete e) :=
  ⟨h.pixv, h.modulePx, h.outDim, h.pixels, h.listed⟩

/-- RASTER changes no byte but those of its pixels (45_rasterizer R274). -/
theorem State.rastered_sameBytes (s : State) :
    SameBytesOutside s s.rastered 0x1000000 (4 * (s.rastered.raster.outDim.toNat * s.rastered.raster.outDim.toNat)) := by
  rw [show s.rastered.raster.outDim.toNat = _ from s.writeRasterSize_toNat.2, ← s.imageBytes_length]
  exact fun a ha => (s.writeBytes_writesOnly 0x1000000 _).byteAt ha

/-- The results of RASTER where its checks pass, the matrix being the DARK bits of MATRIX_BUF (45_rasterizer R275). -/
theorem State.rastered_results (s : State) :
    RasterResults s.rasterN (fun r c => (s.byteAt (0x50000 + 177 * r + c)).getLsbD 0) s s.rastered :=
  s.rastered_holds.rasterResults rfl rfl fun r c hr hc => by
    rw [s.rastered_matrixDark, s.matrixDark_getD hr hc]

/-! ### The command -/

theorem State.rasterStart_frame (s : State) : CommandFrame s s.rasterStart := by constructor <;> rfl

theorem State.writeRasterSize_frame (s : State) : CommandFrame s s.writeRasterSize := by constructor <;> rfl

theorem State.rastered_frame (s : State) : CommandFrame s s.rastered := by constructor <;> rfl

/-- RASTER without a valid symbol, or with W = 0, ends at its check (45_rasterizer R276). -/
theorem exec_raster_rejected {s : State} (h : s.status.symv = false ∨ s.rasterW = 0) :
    exec .raster s = .next (s.rasterStart.complete .invalidInput) := by
  obtain ⟨-, hs⟩ | ⟨hv, hw, -⟩ | ⟨hv, hw, -⟩ := rasterStage_cases s
  · rw [exec_eq, commandStage, hs]
    rfl
  · simp [hv, hw] at h
  · simp [hv, hw] at h

section
variable {s : State} (hv : s.status.symv = true) (hw : s.rasterW ≠ 0)
include hv hw

/-- RASTER of an image larger than PIX_MAX ends once the sizes are written (45_rasterizer R276). -/
theorem exec_raster_overflow
    (hp : s.cfg.pixMax < outDim s.rasterW s.rasterN s.rasterM * outDim s.rasterW s.rasterN s.rasterM) :
    exec .raster s = .next (s.rasterStart.writeRasterSize.complete .bufferOverflow) := by
  rw [exec_eq, commandStage, rasterStage_overflow hv hw hp]
  rfl

/-- RASTER of an image that fits (45_rasterizer R275). -/
theorem exec_raster_fits
    (hp : outDim s.rasterW s.rasterN s.rasterM * outDim s.rasterW s.rasterN s.rasterM ≤ s.cfg.pixMax) :
    exec .raster s = .next (s.rastered.complete .none) := by
  rw [exec_eq, commandStage, rasterStage_fits hv hw hp]
  rfl

/-- Past its first two checks RASTER leaves the sizes it computes, whether the image fits or not (45_rasterizer R275,
R276). -/
theorem exec_raster_sizes : ∃ t, exec .raster s = .next t
    ∧ t.raster.modulePx.toNat = modulePixels s.rasterW s.rasterN s.rasterM
    ∧ t.raster.outDim.toNat = outDim s.rasterW s.rasterN s.rasterM := by
  obtain hp | hp := Nat.lt_or_ge s.cfg.pixMax (outDim s.rasterW s.rasterN s.rasterM * outDim s.rasterW s.rasterN s.rasterM)
  · exact ⟨_, exec_raster_overflow hv hw hp, s.writeRasterSize_toNat⟩
  · exact ⟨_, exec_raster_fits hv hw hp, s.writeRasterSize_toNat⟩

end

/-- Settles O27: the body writes the image of the DARK bits, and the completion changes no result. -/
theorem rasterCompletes : Obligations.RasterCompletes :=
  fun s hv hw hp => ⟨_, exec_raster_fits hv hw hp, s.rastered_frame.completedWith _, s.rastered_frame.engineFrame rfl rfl _,
    s.rastered_results.complete _, rfl, hv, rfl, rfl, s.rastered_sameBytes⟩

/-- Settles O28: T is positive, so a width of at least T leaves the remainder of its division by T, and a smaller width gives
modules of one pixel. -/
theorem rasterGeometry : Obligations.RasterGeometry := by
  intro s hv hw hN
  obtain ⟨t, ht, hmp, hdim⟩ := exec_raster_sizes hv hw
  have hpos : 0 < imageModules s.rasterN s.rasterM := by rw [imageModules]; omega
  refine ⟨t, ht, hmp, ?_, ?_, ?_, fun hle => ?_, fun hlt => ?_⟩
  · rw [hdim, hmp]; rfl
  · rw [hdim]; exact outDim_pos hpos
  · rw [hdim, hmp]; exact Nat.dvd_mul_right _ _
  · have hsum := outDim_add_mod hpos hle
    have hrem : s.rasterW % imageModules s.rasterN s.rasterM < s.rasterN + 2 * s.rasterM := Nat.mod_lt _ hpos
    omega
  · rw [hmp, hdim, modulePixels_of_lt hlt, outDim_of_lt hlt]
    exact ⟨rfl, rfl, hlt⟩

/-- Settles O29: the body raises before it writes the sizes, or with them written and no pixel. -/
theorem rasterRejects : Obligations.RasterRejects := by
  refine fun s => ⟨fun h => ?_, fun hv hw hp => ?_⟩
  · exact ⟨_, exec_raster_rejected h, s.rasterStart_frame.completedWith _, s.rasterStart_frame.engineFrame rfl rfl _,
      rfl, rfl, rfl, rfl, rfl, rfl, rfl, rfl⟩
  · have hframe := s.rasterStart_frame.trans s.rasterStart.writeRasterSize_frame
    obtain ⟨hmp, hdim⟩ := s.writeRasterSize_toNat
    exact ⟨_, exec_raster_overflow hv hw hp, hframe.completedWith _, hframe.engineFrame rfl rfl _, hmp, hdim,
      rfl, rfl, hv, rfl, rfl, rfl⟩

end Sys2Proof.Machine
end

section
/-! ## NOP and GENERATE

A completion changes nothing that BUILD or RASTER reads, so GENERATE, which completes once at its end, leaves what the three
commands leave one after the other. -/

namespace Sys2Proof.Machine

/-- Settles O21: the body is empty, so the completion is all that happens. -/
theorem nopCompletes : Obligations.NopCompletes :=
  fun s => ⟨_, exec_eq .nop s, (CommandFrame.refl s).completedWith _, (CommandFrame.refl s).engineFrame rfl rfl _,
    rfl, rfl, rfl, rfl, rfl, rfl, rfl⟩

/-! ### A completion between two stages -/

/-- The completion changes no field that a matrix write reads or writes. -/
theorem State.writeMatrix_complete (s : State) (e : ErrCode) (g : Grid) :
    (s.complete e).writeMatrix g = (s.writeMatrix g).complete e :=
  List.foldl_hom (State.complete · e) fun _ _ => rfl

/-- The results of BUILD and the completion bits are different fields, and different bits of STATUS (44_mask_penalty R251,
60_exceptions R307, R308). -/
theorem State.writeSymbol_complete (s : State) (e : ErrCode) (y : Symbol) :
    (s.complete e).writeSymbol y = (s.writeSymbol y).complete e := by
  have hw := State.writeMatrix_complete
    ((s.writeBytes (Window.base .dcwBuf) y.dcw).writeBytes (Window.base .cwBuf) y.cw) e y.matrix
  unfold State.writeSymbol
  exact congrArg (fun t : State => { t with
    build := y.regs, status := { s.status.completed e with symv := true } }) hw

/-- BUILD past its SEGV check ends the same way after a completion: every selected version encodes, so no free value is
drawn (44_mask_penalty R250). -/
theorem buildSegments_complete (s : State) (e : ErrCode) (ss : List SegData) (lv : Level) :
    (buildSegments (s.complete e) ss lv).finish = (buildSegments s ss lv).finish := by
  cases hv : selectVersion ss lv with
  | none =>
    rw [buildSegments_tooLong _ hv, buildSegments_tooLong _ hv]
    rfl
  | some v =>
    obtain ⟨y, hy⟩ := encodeSymbol_isSome hv
    rw [buildSegments_symbol _ hv hy, buildSegments_symbol _ hv hy, State.writeSymbol_complete]
    rfl

/-- BUILD of a valid table that names no mode (44_mask_penalty R250, log 8). -/
theorem buildStage_noSegments {s : State} (hv : s.status.segv = true) (hs : s.segments = none) :
    buildStage s = .raised .internalEncodingError s.buildStart.anyBuild := by
  simp [buildStage, hv, hs]

/-- BUILD ends the same way after a completion (44_mask_penalty R250). -/
theorem buildStage_complete (s : State) (e : ErrCode) : (buildStage (s.complete e)).finish = (buildStage s).finish := by
  obtain ⟨hv, h⟩ | ⟨hv, hs, h⟩ | ⟨segs, hv, hs, h⟩ := buildStage_cases s
  · rw [h]
    exact Host.Outcome.next.inj (exec_build_rejected (s := s.complete e) hv)
  · rw [h, buildStage_noSegments (s := s.complete e) hv hs]
    rfl
  · rw [h, buildStage_segments (s := s.complete e) hv hs]
    exact buildSegments_complete s.buildStart e _ _

/-- RASTER ends the same way after a completion (45_rasterizer R275). -/
theorem rasterStage_complete (s : State) (e : ErrCode) : (rasterStage (s.complete e)).finish = (rasterStage s).finish := by
  obtain ⟨h, hs⟩ | ⟨hv, hw, hp, hs⟩ | ⟨hv, hw, hp, hs⟩ := rasterStage_cases s
  · rw [hs]
    exact Host.Outcome.next.inj (exec_raster_rejected (s := s.complete e) h)
  · rw [hs, rasterStage_overflow (s := s.complete e) hv hw hp]
    rfl
  · rw [hs, rasterStage_fits (s := s.complete e) hv hw hp]
    rfl

/-! ### A sequence of stages, each completed -/

/-- The stage, where it raises, names an error: it reports no error only at its end (60_exceptions R307, R308). -/
def Stage.NamesError (x : Stage) : Prop := ∀ s, x ≠ .raised .none s

theorem segmentStage_namesError (s : State) : (segmentStage s).NamesError := by
  intro t
  obtain ⟨-, h⟩ | ⟨-, -, h⟩ := segmentStage_cases s <;> simp [h]

theorem buildStage_namesError (s : State) : (buildStage s).NamesError := by
  intro t
  obtain ⟨-, h⟩ | ⟨-, -, h⟩ | ⟨segs, -, -, h⟩ := buildStage_cases s
  · simp [h]
  · simp [h]
  · rw [h]
    obtain ⟨-, h⟩ | ⟨v, -, -, h⟩ | ⟨v, y, -, -, h⟩ := buildSegments_cases s.buildStart (segs.map s.segData) s.level <;>
      simp [h]

theorem Stage.NamesError.andThen {x : Stage} {f : State → Stage} (hx : x.NamesError) (hf : ∀ s, (f s).NamesError) :
    (x.andThen f).NamesError := by
  cases x with
  | ok s => exact hf s
  | raised e s => exact hx

/-- Where the first stage reports an error, the sequence ends with it (46_control R291). -/
theorem Stage.finish_andThen_of_error {x : Stage} {f : State → Stage} (hx : x.finish.errcode ≠ .none) :
    (x.andThen f).finish = x.finish := by
  cases x with
  | ok s => exact absurd rfl hx
  | raised e s => rfl

/-- Where the first stage reports no error, the sequence ends as the second stage does from the first one's completion
(46_control R291). -/
theorem Stage.finish_andThen_of_noError {x : Stage} {f : State → Stage} (hn : x.NamesError)
    (hf : ∀ s e, (f (s.complete e)).finish = (f s).finish) (hx : x.finish.errcode = .none) :
    (x.andThen f).finish = (f x.finish).finish := by
  cases x with
  | ok s => exact (hf s .none).symm
  | raised e s =>
    obtain rfl : e = .none := hx
    exact absurd rfl (hn s)

/-- Settles O33: each stage's completion changes nothing the next one reads, and the next completion replaces it. -/
theorem generateIsThreeCommands : Obligations.GenerateIsThreeCommands := by
  intro s s1 h1
  obtain rfl := Host.Outcome.next.inj h1
  refine ⟨fun herr => congrArg Host.Outcome.next ?_, fun hok s2 h2 => ?_⟩
  · have hseq : ((segmentStage s).andThen buildStage).finish = (segmentStage s).finish :=
      Stage.finish_andThen_of_error herr
    exact (Stage.finish_andThen_of_error (hseq ▸ herr)).trans hseq
  · have hseq := Stage.finish_andThen_of_noError (segmentStage_namesError s) buildStage_complete hok
    obtain rfl := hseq.trans (Host.Outcome.next.inj h2)
    have hnames := (segmentStage_namesError s).andThen buildStage_namesError
    exact ⟨fun herr => congrArg Host.Outcome.next (Stage.finish_andThen_of_error herr),
      fun hok2 => congrArg Host.Outcome.next (Stage.finish_andThen_of_noError hnames rasterStage_complete hok2)⟩

/-! ### The results of GENERATE -/

/-- Bit 0 of a module byte is its colour (10_state R51). -/
theorem Grid.moduleByte_dark (g : Grid) (r c : Nat) : (g.moduleByte r c).getLsbD 0 = g.darkAt r c := by
  rw [Grid.moduleByte]
  cases g.darkAt r c <;> cases g.funcAt r c <;> rfl

/-- The DARK bits of a state that holds a symbol are the colours of its matrix (45_rasterizer R270). -/
theorem HoldsSymbol.matrixDark_getD {lv : Level} {v r c : Nat} {y : Symbol} {t : State} (h : HoldsSymbol lv v y t)
    (hr : r < sideOf v) (hc : c < sideOf v) :
    (t.matrixDark (sideOf v)).getD (r * sideOf v + c) false = y.matrix.darkAt r c := by
  rw [t.matrixDark_getD hr hc, ← y.matrix.moduleByte_dark]
  exact congrArg (·.getLsbD 0) (h.matrix r c hr hc).1

/-! What RASTER leaves as it is, where its checks pass (45_rasterizer R275). -/

@[simp] theorem State.rastered_rasterN (s : State) : s.rastered.rasterN = s.rasterN := rfl
@[simp] theorem State.rastered_segCount (s : State) : s.rastered.segCount = s.segCount := rfl
@[simp] theorem State.rastered_delayLeft (s : State) : s.rastered.delayLeft = s.delayLeft := rfl
@[simp] theorem State.rastered_draws (s : State) : s.rastered.draws = s.draws := rfl
@[simp] theorem State.rastered_status (s : State) : s.rastered.status = { s.status with pixv := true } := rfl

/-! What stands before the RASTER of a GENERATE (46_control R291). -/

@[simp] theorem State.built_segCount (s : State) (y : Symbol) : (s.built y).segCount = s.segmented.segCount := by
  simp [State.built]

@[simp] theorem State.built_delayLeft (s : State) (y : Symbol) : (s.built y).delayLeft = s.delayLeft := by
  simp [State.built, State.segmented]

@[simp] theorem State.built_draws (s : State) (y : Symbol) : (s.built y).draws = s.draws := by
  simp [State.built, State.segmented]

@[simp] theorem State.built_status (s : State) (y : Symbol) :
    (s.built y).status = { s.status with segv := true, symv := true, pixv := false } := by
  simp [State.built, State.segmented]

theorem State.built_frame (s : State) (y : Symbol) : CommandFrame s (s.built y) :=
  (s.segmented_frame.trans s.segmented.buildStart_frame).trans (s.segmented.buildStart.writeSymbol_frame y)

section
variable {s : State} {v : Nat} {y : Symbol} (hshape : SymbolShape s.level v y)
include hshape

/-- RASTER takes SIDE from the symbol (45_rasterizer R270). -/
theorem State.built_rasterN : (s.built y).rasterN = sideOf v := by
  rw [State.rasterN, State.built, State.writeSymbol_build, hshape.regs_toNat.2.2]

/-- RASTER of the symbol of the text, where its image fits (45_rasterizer R275). -/
theorem rasterStage_built (hw : s.rasterW ≠ 0)
    (hp : outDim s.rasterW (sideOf v) s.rasterM * outDim s.rasterW (sideOf v) s.rasterM ≤ s.cfg.pixMax) :
    rasterStage (s.built y) = .ok (s.built y).rastered := by
  obtain ⟨hcfg, -, -, hconf, -⟩ := s.built_frame y
  have hside := State.built_rasterN hshape
  refine rasterStage_fits (by simp) ?_ ?_
  · rwa [State.rasterW, hconf]
  · rwa [State.rasterW, State.rasterM, hconf, hside, hcfg]

/-- RASTER after the symbol of the text leaves its image, for the width, margin and colours in the registers
(45_rasterizer R273). -/
theorem State.built_rastered_image : RasterResults (sideOf v) y.matrix.darkAt s (s.built y).rastered := by
  have himage := (s.built y).rastered_holds
  rw [State.rasterW, State.rasterM, (s.built_frame y).conf] at himage
  have hside := State.built_rasterN hshape
  have hdark := (s.built y).rastered_matrixDark
  rw [hside] at hdark
  refine himage.rasterResults (by simp) (by rw [State.rastered_rasterN, hside]) fun r c hr hc => ?_
  rw [hdark]
  exact (State.writeSymbol_holds _ hshape).matrixDark_getD hr hc

variable (hc : s.cfg.wellFormed = true) (hn : s.textLen ≤ s.cfg.textMax)
include hc hn

/-- Before RASTER, GENERATE changed no byte but the entries of the text's table and those BUILD stores to
(46_control R291). -/
theorem State.built_byteAt_other {a : Nat}
    (htable : ¬(0x20000 ≤ a ∧ a < 0x20000 + 16 * s.segmented.segCount.toNat)) (hsymbol : ¬StoredByBuild v s.level a) :
    (s.built y).byteAt a = s.byteAt a :=
  calc (s.built y).byteAt a
      = s.segmented.buildStart.byteAt a := State.writeSymbol_byteAt_other _ hshape hsymbol
    _ = s.segmented.byteAt a := rfl
    _ = s.byteAt a := State.segmented_sameBytes hc hn a (by omega)

/-- GENERATE changes no byte but those of its three results (46_control R291). -/
theorem State.built_rastered_byteAt_other {a : Nat}
    (htable : ¬(0x20000 ≤ a ∧ a < 0x20000 + 16 * (s.built y).rastered.segCount.toNat))
    (hsymbol : ¬StoredByBuild v s.level a)
    (himage : ¬(0x1000000 ≤ a ∧ a < 0x1000000
      + 4 * ((s.built y).rastered.raster.outDim.toNat * (s.built y).rastered.raster.outDim.toNat))) :
    (s.built y).rastered.byteAt a = s.byteAt a := by
  rw [State.rastered_segCount, State.built_segCount] at htable
  exact ((s.built y).rastered_sameBytes a (by omega)).trans (State.built_byteAt_other hshape hc hn htable hsymbol)

/-- GENERATE of a text of legal length with a symbol and an image that fits (46_control R291). -/
theorem exec_generate_fits (h1 : 1 ≤ s.textLen) (hsel : selectVersion s.textSegments s.level = some v)
    (hy : encodeSymbol s.textSegments s.level v = some y) (hw : s.rasterW ≠ 0)
    (hp : outDim s.rasterW (sideOf v) s.rasterM * outDim s.rasterW (sideOf v) s.rasterM ≤ s.cfg.pixMax) :
    exec .generate s = .next ((s.built y).rastered.complete .none) := by
  have hstage : generateStage s = .ok (s.built y).rastered := by
    rw [generateStage_legal hc h1 hn, buildSegments_symbol _ hsel hy]
    exact rasterStage_built hshape hw hp
  rw [exec_eq, commandStage, hstage]
  rfl

end

/-- Settles O32: RASTER keeps the table and the symbol before it, and writes the image of the symbol's matrix. -/
theorem generateCompletes : Obligations.GenerateCompletes := by
  intro s v hc h1 hn hsel hw hp
  obtain ⟨m, hm, hy⟩ := encodeSymbol_eq_placedSymbol (ss := s.textSegments) hsel
  have hshape := encodeSymbol_shape hsel hy
  obtain ⟨htable, hsymbol⟩ := State.built_rastered_holds hc hn hshape
  rw [rasterStage_built hshape hw hp] at htable hsymbol
  have hframe := (s.built_frame (placedSymbol s.textSegments s.level v m)).trans (State.rastered_frame _)
  have hsegment := htable.results (by simp) (by have := Config.wellFormed_bounds hc; omega)
  have hresults := (hsymbol.complete .none).buildResults hsel hm hy (by simp)
  exact ⟨m, _, hm, exec_generate_fits hshape hc hn h1 hsel hy hw hp, hframe.completedWith _,
    hframe.engineFrame (by simp) (by simp) _, hsegment.complete _, hresults,
    (State.built_rastered_image hshape).complete _, fun _ => State.built_rastered_byteAt_other hshape hc hn⟩

end Sys2Proof.Machine
end

section
/-! ## Exceptions

Where a command raises, it leaves what its checks read as it was, so that it raises the same again (60_exceptions R309); and
BUILD of an honest segment table never reaches its InternalEncodingError (60_exceptions R303). -/

namespace Sys2Proof.Machine

/-! ### A word that is no command -/

/-- Where the completion of a word above 5 is due, the step only completes it with ILLEGAL_COMMAND (60_exceptions R304). -/
theorem step_illegalWord {s : State} (h : s.completionDue = true) (hw : 6 ≤ s.latchedOp.toNat) :
    step s = .next (s.complete .illegalCommand) := by
  have hstep : step s = engineStep s := if_pos h
  rw [hstep, engineStep]
  obtain ⟨i, he, -⟩ | ⟨-, hd⟩ | ⟨-, -, hd⟩ := decode_cases s.latchedOp
  · have := encode_toNat_lt i
    rw [← he] at this
    omega
  · rw [hd]
    rfl
  · rw [hd]
    rfl

/-- Settles O3: the decoder rejects the word, and the completion is all that happens. -/
theorem illegalWordCompletes : Obligations.IllegalWordCompletes :=
  fun s h hw => ⟨_, step_illegalWord h hw, (CommandFrame.refl s).completedWith _,
    (CommandFrame.refl s).engineFrame rfl rfl _, rfl, fun hinv => hinv.latched_is_cmd.symm,
    rfl, rfl, rfl, rfl, rfl, rfl, rfl⟩

/-! ### A failed command issued again -/

/-- The command, accepted in state t, completes with the code t reports. -/
def ReportsAgain (i : Instr) (t : State) : Prop := ∃ u, exec i (t.accept (encode i)) = .next u ∧ u.errcode = t.errcode

section
variable {s : State}

/-- SEGMENT's checks read TEXT_LEN and TEXT_MAX (40_segmenter R131). -/
theorem segmentStage_reportsAgain (h : (segmentStage s).finish.errcode ≠ .none) :
    ReportsAgain .segment (segmentStage s).finish := by
  obtain ⟨hn, hs⟩ | ⟨-, -, hs⟩ := segmentStage_cases s <;> rw [hs] at h ⊢
  · exact ⟨_, exec_segment_rejected hn, rfl⟩
  · exact absurd rfl h

/-- BUILD of a valid table that names no mode ends with InternalEncodingError (44_mask_penalty R252, log 8). -/
theorem exec_build_noSegments (hv : s.status.segv = true) (hs : s.segments = none) :
    exec .build s = .next (s.buildStart.anyBuild.complete .internalEncodingError) := by
  rw [exec_eq, commandStage, buildStage_noSegments hv hs]
  rfl

/-- BUILD, where it raises, leaves SEGV, the segment table, the text and the level as they were (44_mask_penalty R252). -/
theorem buildStage_reportsAgain (h : (buildStage s).finish.errcode ≠ .none) :
    ReportsAgain .build (buildStage s).finish := by
  obtain ⟨hv, hs⟩ | ⟨hv, hnone, hs⟩ | ⟨segs, hv, hsome, hs⟩ := buildStage_cases s <;> rw [hs] at h ⊢
  · exact ⟨_, exec_build_rejected hv, rfl⟩
  · exact ⟨_, exec_build_noSegments hv hnone, rfl⟩
  · cases hsel : selectVersion (segs.map s.segData) s.level with
    | none =>
      rw [buildSegments_tooLong _ hsel]
      exact ⟨_, exec_build_tooLong hv hsome hsel, rfl⟩
    | some v =>
      obtain ⟨y, hy⟩ := encodeSymbol_isSome hsel
      rw [buildSegments_symbol _ hsel hy] at h
      exact absurd rfl h

/-- RASTER, where it raises, leaves SYMV, SIDE, the width and the margin as they were (45_rasterizer R276). -/
theorem rasterStage_reportsAgain (h : (rasterStage s).finish.errcode ≠ .none) :
    ReportsAgain .raster (rasterStage s).finish := by
  obtain ⟨hn, hs⟩ | ⟨hv, hw, hp, hs⟩ | ⟨-, -, -, hs⟩ := rasterStage_cases s <;> rw [hs] at h ⊢
  · exact ⟨_, exec_raster_rejected hn, rfl⟩
  · exact ⟨_, exec_raster_overflow hv hw hp, rfl⟩
  · exact absurd rfl h

/-- RS_ENCODE ends at its four checks (42_reed_solomon R189). -/
theorem exec_rsEncode_illegal (hl : s.rsLegal = false) : exec .rsEncode s = .next (s.complete .invalidInput) := by
  rw [exec_eq, commandStage, rsEncodeStage, if_pos hl]
  rfl

/-- RS_ENCODE's checks read K, E and RS_MAX_EC (42_reed_solomon R189). -/
theorem rsEncodeStage_reportsAgain (h : (rsEncodeStage s).finish.errcode ≠ .none) :
    ReportsAgain .rsEncode (rsEncodeStage s).finish := by
  obtain ⟨hl, hs⟩ | ⟨-, hs⟩ := rsEncodeStage_cases s <;> rw [hs] at h ⊢
  · exact ⟨_, exec_rsEncode_illegal hl, rfl⟩
  · exact absurd rfl h

/-- GENERATE leaves its inputs as they were, which give its code (46_control R291). -/
theorem generateStage_reportsAgain (hc : s.cfg.wellFormed = true) : ReportsAgain .generate (generateStage s).finish := by
  obtain ⟨hcfg, hconf, -⟩ := engineWritesNoInput .generate s (generateStage s).finish hc rfl
  have htext : ∀ k, k < s.textLen → (generateStage s).finish.byteAt (0x10000 + k) = s.byteAt (0x10000 + k) := by
    intro k hk
    have hlen : s.textLen < 0x10000 := s.conf.textLen.isLt
    rw [Stage.finish_eq]
    exact (generateStage_writesOnly hc).byteAt (.inl (by omega))
  have hsame := generateDeterministic s ((generateStage s).finish.accept (encode .generate)) _ _ hc hcfg hconf htext rfl rfl
  exact ⟨_, rfl, hsame.1⟩

end

/-- Settles O35: a command that raises leaves what its checks read as it was. -/
theorem failedCommandFailsAgain : Obligations.FailedCommandFailsAgain := by
  intro i s t hc hexec hfail
  rw [exec_eq, ← Stage.finish_eq] at hexec
  obtain rfl := Host.Outcome.next.inj hexec
  cases i with
  | nop => exact absurd rfl hfail
  | segment => exact segmentStage_reportsAgain hfail
  | build => exact buildStage_reportsAgain hfail
  | raster => exact rasterStage_reportsAgain hfail
  | generate => exact generateStage_reportsAgain hc
  | rsEncode => exact rsEncodeStage_reportsAgain hfail

/-! ### InternalEncodingError -/

theorem segmentStage_code_ne_internal (s : State) : (segmentStage s).code ≠ .internalEncodingError := by
  obtain ⟨-, h⟩ | ⟨-, -, h⟩ := segmentStage_cases s <;> simp [h]

/-- Every selected version encodes, so BUILD of segments raises DataTooLong alone (43_matrix_layout R227). -/
theorem buildSegments_code_ne_internal (s : State) (ss : List SegData) (lv : Level) :
    (buildSegments s ss lv).code ≠ .internalEncodingError := by
  cases hsel : selectVersion ss lv with
  | none => simp [buildSegments_tooLong s hsel]
  | some v =>
    obtain ⟨y, hy⟩ := encodeSymbol_isSome hsel
    simp [buildSegments_symbol s hsel hy]

/-- An honest segment table names a mode in every entry (10_state R30, R48). -/
theorem buildStage_code_ne_internal {s : State} (h : SegmentTableInv s) :
    (buildStage s).code ≠ .internalEncodingError := by
  obtain ⟨-, hs⟩ | ⟨hv, hnone, -⟩ | ⟨segs, -, -, hs⟩ := buildStage_cases s
  · simp [hs]
  · obtain ⟨-, -, -, hsome⟩ := h hv
    simp [hnone] at hsome
  · rw [hs]
    exact buildSegments_code_ne_internal _ _ _

theorem rasterStage_code_ne_internal (s : State) : (rasterStage s).code ≠ .internalEncodingError := by
  obtain ⟨-, h⟩ | ⟨-, -, -, h⟩ | ⟨-, -, -, h⟩ := rasterStage_cases s <;> simp [h]

theorem rsEncodeStage_code_ne_internal (s : State) : (rsEncodeStage s).code ≠ .internalEncodingError := by
  obtain ⟨-, h⟩ | ⟨-, h⟩ := rsEncodeStage_cases s <;> simp [h]

/-- GENERATE builds from the table that its own SEGMENT leaves, whatever table it finds (46_control R291). -/
theorem generateStage_code_ne_internal {s : State} (hc : s.cfg.wellFormed = true) :
    (generateStage s).code ≠ .internalEncodingError := by
  by_cases hn : s.textLen = 0 ∨ s.cfg.textMax < s.textLen
  · simp [generateStage_rejects hn]
  · rw [generateStage_legal hc (by omega) (by omega)]
    exact Stage.andThen_code_ne (buildSegments_code_ne_internal _ _ _) rasterStage_code_ne_internal

/-- Settles O60: only BUILD can raise it, where an entry names no mode or a selected version does not encode; the first an
honest table rules out, the second never happens. -/
theorem noInternalEncodingError : Obligations.NoInternalEncodingError := by
  intro i s t hc hinv hexec
  rw [exec_eq] at hexec
  obtain rfl := Host.Outcome.next.inj hexec
  rw [State.complete_errcode]
  cases i with
  | nop => simp [commandStage]
  | segment => exact segmentStage_code_ne_internal s
  | build => exact buildStage_code_ne_internal hinv
  | raster => exact rasterStage_code_ne_internal s
  | generate => exact generateStage_code_ne_internal hc
  | rsEncode => exact rsEncodeStage_code_ne_internal s

end Sys2Proof.Machine
end

section
/-! ## Equal data give equal results

Each command's body, from two states that hold the same data, ends with the same code and leaves the same data: it reads
neither the control bits nor what stands outside the block. Only BUILD's InternalEncodingError draws free values. -/

namespace Sys2Proof.Machine

theorem SameData.refl (s : State) : SameData s s := ⟨rfl, rfl, rfl, rfl, rfl, rfl, rfl, rfl, rfl, rfl⟩

theorem SameData.trans {s t u : State} (h : SameData s t) (g : SameData t u) : SameData s u :=
  ⟨g.cfg.trans h.cfg, g.conf.trans h.conf, g.segCount.trans h.segCount, g.build.trans h.build, g.raster.trans h.raster,
    g.mem.trans h.mem, g.epoch.trans h.epoch, g.segv.trans h.segv, g.symv.trans h.symv, g.pixv.trans h.pixv⟩

/-- The two stages end alike: with the same code and the same data, but for the free values that the BUILD result registers
hold after an InternalEncodingError (44_mask_penalty R252). -/
inductive SameEnding : Stage → Stage → Prop
  | ok {s t : State} (h : SameData s t) : SameEnding (.ok s) (.ok t)
  | raised (e : ErrCode) {s t : State} (h : SameData s t) : SameEnding (.raised e s) (.raised e t)
  | internal {s t : State} (h : SameData s t) :
      SameEnding (.raised .internalEncodingError s.anyBuild) (.raised .internalEncodingError t.anyBuild)

/-- The second stage of a sequence starts from equal data, or is not reached (46_control R291). -/
theorem SameEnding.andThen {x z : Stage} {f : State → Stage} (h : SameEnding x z)
    (hf : ∀ {s t}, SameData s t → SameEnding (f s) (f t)) : SameEnding (x.andThen f) (z.andThen f) := by
  cases h with
  | ok h => exact hf h
  | raised e h => exact .raised e h
  | internal h => exact .internal h

/-- What two stages that end alike have in common. -/
theorem SameEnding.results {x z : Stage} (h : SameEnding x z) :
    z.code = x.code ∧ z.state.mem = x.state.mem ∧ z.state.segCount = x.state.segCount ∧ z.state.raster = x.state.raster
      ∧ (x.code ≠ .internalEncodingError → z.state.build = x.state.build)
      ∧ z.state.status.segv = x.state.status.segv ∧ z.state.status.symv = x.state.status.symv
      ∧ z.state.status.pixv = x.state.status.pixv := by
  cases h with
  | ok h => exact ⟨rfl, h.mem, h.segCount, h.raster, fun _ => h.build, h.segv, h.symv, h.pixv⟩
  | raised e h => exact ⟨rfl, h.mem, h.segCount, h.raster, fun _ => h.build, h.segv, h.symv, h.pixv⟩
  | internal h => exact ⟨rfl, h.mem, h.segCount, h.raster, fun hne => absurd rfl hne, h.segv, h.symv, h.pixv⟩

namespace SameData

variable {s t : State} (h : SameData s t)
include h

/-! ### The operands -/

theorem readBytes_eq (off len : Nat) : t.readBytes off len = s.readBytes off len :=
  h.writesOnly.readBytes (.inr (Nat.zero_le off))

theorem textLen_eq : t.textLen = s.textLen := congrArg (fun c : ConfRegs => c.textLen.toNat) h.conf

theorem textBytes_eq (start n : Nat) : t.textBytes start n = s.textBytes start n := h.readBytes_eq _ _

theorem level_eq : t.level = s.level := congrArg (fun c : ConfRegs => Level.ofBits c.eclReq) h.conf

theorem segments_eq : t.segments = s.segments := by
  have hentry : t.segEntry = s.segEntry := funext fun i => by simp only [State.segEntry, State.segWord, h.readBytes_eq]
  rw [State.segments, hentry, h.segCount, State.segments]

theorem segData_eq : t.segData = s.segData := funext fun x => by simp only [State.segData, h.textBytes_eq]

theorem rasterW_eq : t.rasterW = s.rasterW := congrArg (fun c : ConfRegs => c.pixelWidth.toNat) h.conf

theorem rasterM_eq : t.rasterM = s.rasterM := congrArg (fun c : ConfRegs => c.margin.toNat) h.conf

theorem rasterN_eq : t.rasterN = s.rasterN := congrArg (fun b : BuildRegs => b.side.toNat) h.build

theorem image_eq : t.image = s.image :=
  State.image_congr h.conf h.build (by simp only [State.matrixDark, h.readBytes_eq])

theorem rsK_eq : t.rsK = s.rsK := congrArg (fun c : ConfRegs => c.rsDataLen.toNat) h.conf

theorem rsE_eq : t.rsE = s.rsE := congrArg (fun c : ConfRegs => c.rsEcLen.toNat) h.conf

theorem rsLegal_eq : t.rsLegal = s.rsLegal := by
  simp only [State.rsLegal, h.rsK_eq, h.rsE_eq, h.cfg]

/-! ### What the commands write -/

theorem writeBytes (off : Nat) (bytes : List Byte) : SameData (s.writeBytes off bytes) (t.writeBytes off bytes) :=
  ⟨h.cfg, h.conf, h.segCount, h.build, h.raster, congrArg (Memory.write · off bytes) h.mem, h.epoch, h.segv, h.symv, h.pixv⟩

theorem segmentStart : SameData s.segmentStart t.segmentStart :=
  ⟨h.cfg, h.conf, rfl, h.build, h.raster, h.mem, h.epoch, rfl, h.symv, h.pixv⟩

theorem writeSegments (segs : List Segment) : SameData (s.writeSegments segs) (t.writeSegments segs) :=
  ⟨h.cfg, h.conf, rfl, h.build, h.raster, (h.writeBytes _ _).mem, h.epoch, rfl, h.symv, h.pixv⟩

theorem buildStart : SameData s.buildStart t.buildStart :=
  ⟨h.cfg, h.conf, h.segCount, rfl, h.raster, h.mem, h.epoch, h.segv, rfl, rfl⟩

theorem reportTooLong (ss : List SegData) (lv : Level) : SameData (s.reportTooLong ss lv) (t.reportTooLong ss lv) :=
  ⟨h.cfg, h.conf, h.segCount,
    congrArg (fun b : BuildRegs => { b with
      reqBytes := BitVec.ofNat 32 (requiredBytes ss 40)
      capBytes := BitVec.ofNat 12 (dataCw 40 lv)
      levelUsed := lv.toBits }) h.build,
    h.raster, h.mem, h.epoch, h.segv, h.symv, h.pixv⟩

theorem writeMatrix (g : Grid) : SameData (s.writeMatrix g) (t.writeMatrix g) :=
  List.foldl_rel h fun _ _ _ _ hrow => hrow.writeBytes _ _

theorem writeSymbol (y : Symbol) : SameData (s.writeSymbol y) (t.writeSymbol y) := by
  have hw := ((h.writeBytes (Window.base .dcwBuf) y.dcw).writeBytes (Window.base .cwBuf) y.cw).writeMatrix y.matrix
  exact ⟨hw.cfg, hw.conf, hw.segCount, rfl, hw.raster, hw.mem, hw.epoch, h.segv, rfl, h.pixv⟩

theorem rasterStart : SameData s.rasterStart t.rasterStart :=
  ⟨h.cfg, h.conf, h.segCount, h.build, rfl, h.mem, h.epoch, h.segv, h.symv, rfl⟩

theorem writeRasterSize : SameData s.writeRasterSize t.writeRasterSize := by
  refine ⟨h.cfg, h.conf, h.segCount, h.build, ?_, h.mem, h.epoch, h.segv, h.symv, h.pixv⟩
  simp only [State.writeRasterSize, h.rasterW_eq, h.rasterM_eq, h.rasterN_eq]

theorem rastered : SameData s.rastered t.rastered := by
  have hw := h.rasterStart.writeRasterSize.writeBytes (Window.base .pixelBuf) (s.image.flatMap fun w => bytesLE 4 w.toNat)
  rw [State.rastered, State.rastered, h.image_eq]
  exact ⟨hw.cfg, hw.conf, hw.segCount, hw.build, hw.raster, hw.mem, hw.epoch, h.segv, h.symv, rfl⟩

/-! ### The commands -/

theorem segmentStage_sameEnding : SameEnding (segmentStage s) (segmentStage t) := by
  simp only [segmentStage, h.textLen_eq, h.textBytes_eq, h.cfg]
  split_ifs
  · exact .raised _ h.segmentStart
  · exact .raised _ h.segmentStart
  · exact .ok (h.segmentStart.writeSegments _)

theorem buildSegments_sameEnding (ss : List SegData) (lv : Level) :
    SameEnding (buildSegments s ss lv) (buildSegments t ss lv) := by
  cases hv : selectVersion ss lv with
  | none =>
    rw [buildSegments_tooLong s hv, buildSegments_tooLong t hv]
    exact .raised _ (h.reportTooLong ss lv)
  | some v =>
    obtain ⟨y, hy⟩ := encodeSymbol_isSome hv
    rw [buildSegments_symbol s hv hy, buildSegments_symbol t hv hy]
    exact .ok (h.writeSymbol y)

theorem buildStage_sameEnding : SameEnding (buildStage s) (buildStage t) := by
  obtain ⟨hv, hs⟩ | ⟨hv, hnone, hs⟩ | ⟨segs, hv, hsome, hs⟩ := buildStage_cases s <;> rw [hs]
  · rw [buildStage, if_pos (h.segv.trans hv)]
    exact .raised _ h.buildStart
  · rw [buildStage_noSegments (h.segv.trans hv) (h.segments_eq.trans hnone)]
    exact .internal h.buildStart
  · rw [buildStage_segments (h.segv.trans hv) (h.segments_eq.trans hsome), h.segData_eq, h.level_eq]
    exact h.buildStart.buildSegments_sameEnding _ _

theorem rasterStage_sameEnding : SameEnding (rasterStage s) (rasterStage t) := by
  simp only [rasterStage, h.symv, h.rasterW_eq, h.rasterM_eq, h.rasterN_eq, h.cfg]
  split_ifs
  · exact .raised _ h.rasterStart
  · exact .raised _ h.rasterStart
  · exact .raised _ h.rasterStart.writeRasterSize
  · exact .ok h.rastered

theorem rsEncodeStage_sameEnding : SameEnding (rsEncodeStage s) (rsEncodeStage t) := by
  simp only [rsEncodeStage, h.rsLegal_eq, h.rsK_eq, h.rsE_eq, State.rsBytes, h.readBytes_eq]
  split_ifs
  · exact .raised _ h
  · exact .ok (h.writeBytes _ _)

/-- Every command ends alike from equal data (70_reset R335). -/
theorem commandStage_sameEnding (i : Instr) : SameEnding (commandStage i s) (commandStage i t) := by
  cases i with
  | nop => exact .ok h
  | segment => exact h.segmentStage_sameEnding
  | build => exact h.buildStage_sameEnding
  | raster => exact h.rasterStage_sameEnding
  | generate => exact (h.segmentStage_sameEnding.andThen buildStage_sameEnding).andThen rasterStage_sameEnding
  | rsEncode => exact h.rsEncodeStage_sameEnding

end SameData

end Sys2Proof.Machine
end

section
/-! ## A running command

While a command runs, an input but a reset changes OVR and what stands outside the block alone. So the command's operands
stand, its delay falls by one with each input, and its completion comes. -/

namespace Sys2Proof.Machine

/-- While a command runs, an input but a reset changes OVR, the pending inputs, the values read and the draws alone; a WAIT
poll alone stays pending (20_memory R66, R68, 30_encoding R96). -/
theorem State.hostStep_busy {s : State} (hr : s.resetLine = false) (hb : s.status.busy = true) {op : HostOp}
    (hop : ∀ level, op ≠ .resetLine level) :
    ∃ ovr queue reads drawn, (∀ o ∈ queue, o ∈ s.hostQueue ∨ o = .wait)
      ∧ s.hostStep op = { s with
          status := { s.status with ovr := ovr }, hostQueue := queue, hostReads := reads, draws := drawn } := by
  cases op with
  | write w a v =>
    rw [busyIgnoresWrites s w a v hr hb]
    split
    · exact ⟨true, s.hostQueue, s.hostReads, s.draws, fun _ => .inl, rfl⟩
    · exact ⟨s.status.ovr, s.hostQueue, s.hostReads, s.draws, fun _ => .inl, rfl⟩
  | read w a => exact ⟨s.status.ovr, s.hostQueue, s.busRead w a :: s.hostReads, s.draws + 1, fun _ => .inl, rfl⟩
  | wait =>
    rw [State.hostStep_wait hr, if_pos hb]
    exact ⟨s.status.ovr, .wait :: s.hostQueue, s.status.toWord :: s.hostReads, s.draws + 1,
      fun _ ho => (List.mem_cons.mp ho).symm, rfl⟩
  | resetLine level => exact absurd rfl (hop level)

/-- A command runs, and no reset is asserted or pending (70_reset R341). -/
structure RunsUndisturbed (s : State) : Prop where
  control : ControlInv s
  phase : s.phase = .running
  resetLine : s.resetLine = false
  noReset : ∀ level, HostOp.resetLine level ∉ s.hostQueue

/-- The operands and the results of the running command stand: the data, CMD and LATCHED_OP (70_reset R335). -/
structure KeepsOperands (s t : State) : Prop extends SameData s t where
  cmd : t.cmd = s.cmd
  latchedOp : t.latchedOp = s.latchedOp

theorem KeepsOperands.trans {s t u : State} (h : KeepsOperands s t) (g : KeepsOperands t u) : KeepsOperands s u :=
  ⟨h.toSameData.trans g.toSameData, g.cmd.trans h.cmd, g.latchedOp.trans h.latchedOp⟩

namespace RunsUndisturbed

variable {s : State}

/-- A step before the completion is due keeps the operands, and takes one host step off the delay (70_reset R334, R335). -/
theorem step_keeps (h : RunsUndisturbed s) (hdue : s.completionDue = false) :
    ∃ t, step s = .next t ∧ RunsUndisturbed t ∧ KeepsOperands s t ∧ t.delayLeft + 1 = s.delayLeft := by
  obtain ⟨hdelay, hqueue⟩ : s.delayLeft ≠ 0 ∧ s.hostQueue ≠ [] := by simpa [State.completionDue, h.phase] using hdue
  obtain ⟨op, rest, hq⟩ := List.exists_cons_of_ne_nil hqueue
  have hop : ∀ level, op ≠ .resetLine level := by
    rintro level rfl
    exact h.noReset level (by simp [hq])
  obtain ⟨ovr, queue, reads, drawn, hpending, heq⟩ := State.hostStep_busy
    (s := { s with hostQueue := rest, delayLeft := s.delayLeft - 1 }) h.resetLine
    (h.control.busy_iff_running.mpr h.phase) hop
  have hstep := step_of_input hdue hq
  rw [heq] at hstep
  refine ⟨_, hstep, ⟨(stepKeepsControl s _ h.control hstep).1, h.phase, h.resetLine, fun level hmem => ?_⟩,
    ⟨⟨rfl, rfl, rfl, rfl, rfl, rfl, rfl, rfl, rfl, rfl⟩, rfl, rfl⟩, Nat.sub_add_cancel (Nat.pos_of_ne_zero hdelay)⟩
  have hrest : .resetLine level ∈ rest := (hpending _ hmem).resolve_right nofun
  exact h.noReset level (hq ▸ .tail op hrest)

/-- The completion is due within the delay (70_reset R341, log 2). -/
theorem reaches_completion (h : RunsUndisturbed s) {d : Nat} (hd : s.delayLeft = d) :
    ∃ n u, n ≤ d ∧ runSteps n s = some u ∧ u.completionDue = true := by
  induction d generalizing s with
  | zero => exact ⟨0, s, le_rfl, rfl, by simp [State.completionDue, h.phase, hd]⟩
  | succ d ih =>
    cases hdue : s.completionDue with
    | true => exact ⟨0, s, Nat.zero_le _, rfl, hdue⟩
    | false =>
      obtain ⟨t, hstep, ht, -, hdelay⟩ := h.step_keeps hdue
      obtain ⟨n, u, hn, hrun, hu⟩ := ih ht (by omega)
      exact ⟨n + 1, u, by omega, (runSteps_succ hstep n).trans hrun, hu⟩

/-- However many steps come before the completion, they keep the operands (70_reset R335). -/
theorem runSteps_keeps (h : RunsUndisturbed s) {n : Nat} {u : State}
    (hno : ∀ m, m < n → ∃ x, runSteps m s = some x ∧ x.completionDue = false) (hrun : runSteps n s = some u) :
    RunsUndisturbed u ∧ KeepsOperands s u := by
  induction n generalizing s with
  | zero =>
    obtain rfl := Option.some.inj hrun
    exact ⟨h, .refl s, rfl, rfl⟩
  | succ n ih =>
    obtain ⟨x, hx, hdue⟩ := hno 0 (Nat.succ_pos n)
    obtain rfl := Option.some.inj hx
    obtain ⟨t, hstep, ht, hkeeps, -⟩ := h.step_keeps hdue
    rw [runSteps_succ hstep] at hrun
    obtain ⟨hu, hrest⟩ := ih ht (fun m hm => runSteps_succ hstep m ▸ hno (m + 1) (by omega)) hrun
    exact ⟨hu, hkeeps.trans hrest⟩

end RunsUndisturbed

/-- Settles O7: each input takes one host step off the delay, so the completion is due within it; the step then completes. -/
theorem acceptedCommandCompletes : Obligations.AcceptedCommandCompletes := by
  intro s hinv hp hr hno
  obtain ⟨n, u, hn, hrun, hdue⟩ := RunsUndisturbed.reaches_completion ⟨hinv, hp, hr, hno⟩ rfl
  obtain ⟨t, e, hstep, -⟩ := step_of_completionDue hdue
  exact ⟨n, u, t.complete e, hn, hrun, hdue, hstep, rfl, rfl, rfl⟩

/-- Settles O8: each step before the completion keeps the data, from which every command ends alike. -/
theorem inputsFrozenWhileRunning : Obligations.InputsFrozenWhileRunning := by
  intro s u n hinv hp hr hnoReset hno hrun
  obtain ⟨hu, hkeeps⟩ := RunsUndisturbed.runSteps_keeps ⟨hinv, hp, hr, hnoReset⟩ hno hrun
  obtain ⟨hdata, hcmd, hlatched⟩ := hkeeps
  refine ⟨hu.phase, hcmd, hlatched, hdata.conf, hdata.mem, hdata.segv, hdata.symv, hdata.pixv, hdata.segCount,
    hdata.build, hdata.raster, hdata.cfg, hdata.epoch, fun i t t' ht ht' => ?_⟩
  rw [exec_eq] at ht ht'
  obtain rfl := Host.Outcome.next.inj ht
  obtain rfl := Host.Outcome.next.inj ht'
  exact (hdata.commandStage_sameEnding i).results

end Sys2Proof.Machine
end

section
/-! ## The schedule, acceptance and reset -/

namespace Sys2Proof.Machine

/-- Where the completion is due, the step runs the command LATCHED_OP names (70_reset R337). -/
theorem step_of_decode {s : State} (hdue : s.completionDue = true) {i : Instr} (hi : decode s.latchedOp = .ok i) :
    step s = exec i s := by
  simp only [step, hdue, if_true, engineStep, hi]

/-- A word placed is the latched one (log 7). -/
theorem State.withFetchWord_latchedOp (s : State) (w : Word) : (s.withFetchWord 32 w.toNat).latchedOp = w := by
  have hw : w.toNat % 2 ^ 32 = w.toNat := Nat.mod_eq_of_lt w.isLt
  simp only [State.withFetchWord, State.accept_latchedOp, hw, BitVec.ofNat_toNat, BitVec.setWidth_eq]

/-- Settles O4: the step is the engine's, which decodes LATCHED_OP; a placed word is latched, its completion due. -/
theorem stepRunsDecodedCommand : Obligations.StepRunsDecodedCommand := by
  refine ⟨fun s i hdue hi => step_of_decode hdue hi, fun s w i hi => ?_⟩
  have hlatched := s.withFetchWord_latchedOp w
  exact ⟨hlatched, step_of_decode rfl ((congrArg decode hlatched).trans hi)⟩

/-- With no command's completion due and no input pending the block stays as it is (log 6). -/
theorem step_idle {s : State} (hdue : s.completionDue = false) (hq : s.hostQueue = []) : step s = .next s := by
  simp [step, hdue, hq]

/-- Settles O5: the two cases of the pending inputs. -/
theorem stepTakesNextInput : Obligations.StepTakesNextInput :=
  fun _ hdue => ⟨step_idle hdue, fun _ _ hq => step_of_input hdue hq⟩

/-- Settles O12: the write is the acceptance. -/
theorem acceptanceExact : Obligations.AcceptanceExact := by
  intro s a w hr hb hoff
  obtain ⟨haccept, -⟩ := writeSideEffects s .w32 a w hr hb
  exact ⟨_, _, haccept ⟨rfl, hoff⟩⟩

/-- While the reset line is asserted, and when it is deasserted, the block's state is the reset state (70_reset R330). -/
theorem State.hostStep_reset {s : State} {level : Bool} (h : level = true ∨ s.resetLine = true) :
    s.hostStep (.resetLine level) = { State.afterReset s.cfg (s.epoch + 1) with
      resetLine := level, hostQueue := s.hostQueue, hostReads := s.hostReads, draws := s.draws } := by
  have hcond : (level || s.resetLine) = true := by simpa using h
  simp only [State.hostStep, State.driveReset, hcond, if_true]

/-- A host write has no effect while reset is asserted (70_reset R330). -/
theorem State.hostStep_write_inReset {s : State} (hr : s.resetLine = true) (w : Width) (a v : Word) :
    s.hostStep (.write w a v) = s := by
  simp [State.hostStep_write, State.busWrite, hr]

/-- A result register reads the results of its command alone (10_state R42 to R45). -/
theorem State.readReg_result_congr {s t : State} (hc : t.segCount = s.segCount) (hb : t.build = s.build)
    (hrast : t.raster = s.raster) {r : Reg} (hr : r.isResult = true) : t.readReg r = s.readReg r := by
  cases r with
  | id | cmd | status | errcode | textLen | eclReq | pixelWidth | margin | darkColor | lightColor | rsDataLen | rsEcLen =>
    cases hr
  | segCount => rw [State.readReg, State.readReg, hc]
  | modulePx | outDim => rw [State.readReg, State.readReg, hrast]
  | _ => rw [State.readReg, State.readReg, hb]

/-- Settles O11: the block's state is that of `State.afterReset`, whose results are those of `State.reset`. -/
theorem resetAbandonsCommand : Obligations.ResetAbandonsCommand := by
  obtain ⟨-, -, -, -, -, -, -, -, -, -, -, -, hresults, -⟩ := resetValues
  refine ⟨fun s level h => ?_, fun s w a v hr => State.hostStep_write_inReset hr w a v⟩
  rw [State.hostStep_reset h]
  refine ⟨rfl, rfl, rfl, rfl, rfl, rfl, rfl, fun r hr => ?_, fun _ => rfl, rfl, rfl, rfl⟩
  refine (State.readReg_result_congr (s := State.reset) ?_ ?_ ?_ hr).trans (hresults r hr) <;> rfl

end Sys2Proof.Machine
end
